-- ==== Sys2Proof/Word.lean ====
section
/-! DEFINITION. The widths of the block's values: the 32-bit command and result words (R51, R53), the 8-bit control
registers, the 16-bit value that holds a compare register or a traced write, and the 7-bit pin identifier (R8). -/

namespace Sys2Proof

/-- The 32-bit command word and result word (R8, R51, R53). -/
abbrev Word := BitVec 32

/-- An 8-bit control register (R8, R15). -/
abbrev Byte := BitVec 8

/-- The widest register of the block, a 16-bit compare register (R15, R16). -/
abbrev Half := BitVec 16

/-- A pin identifier, 0 to 127 (R8, R62). -/
abbrev Pin := BitVec 7

end Sys2Proof
end

