-- ==== Sys2Proof/Config.lean ====
section
/-! DEFINITION. What is fixed before a run: the timers and channels (R6), the enumerations of the source (R56, R58, R59,
R60) and the BoardProfile parameter (R7). The profile's tables are plain data, so that a profile can stand in State. -/

namespace Sys2Proof

/-- The three timers (R6). -/
inductive Timer where
  | t0 | t1 | t2
deriving DecidableEq, Repr

/-- The two output channels of a timer (R6). -/
inductive Channel where
  | a | b
deriving DecidableEq, Repr

/-- WaveformMode, in the order of R56. -/
inductive WaveformMode where
  | normal | fast | phase | ctc | pfc
deriving DecidableEq, Repr

/-- AdvancedModeSetting, in the order of R58. -/
inductive AdvancedModeSetting where
  | bits8 | bits9 | bits10 | topOcra | topIcr
deriving DecidableEq, Repr

/-- OutputType, in the order of R59. -/
inductive OutputType where
  | disabled | toggle | enabled | inverted
deriving DecidableEq, Repr

/-- FrequencyChoice, the nine named choices of R60. -/
inductive FrequencyChoice where
  | f62500 | f15625 | f7812 | f1953 | f976 | f488 | f244 | f61 | f15
deriving DecidableEq, Repr

/-- The resolution of a timer, one of 8 and 16 bits (R7, R16). -/
inductive Width where
  | w8 | w16
deriving DecidableEq, Repr

/-- The number of bits a Width names. -/
def Width.bits : Width → Nat
  | .w8 => 8
  | .w16 => 16

/-- One value for each timer. -/
structure PerTimer (α : Type) where
  t0 : α
  t1 : α
  t2 : α
deriving DecidableEq, Repr

/-- The entry of timer `t`. -/
def PerTimer.get {α : Type} (x : PerTimer α) : Timer → α
  | .t0 => x.t0
  | .t1 => x.t1
  | .t2 => x.t2

/-- `x` with the entry of timer `t` replaced. -/
def PerTimer.set {α : Type} (x : PerTimer α) (t : Timer) (v : α) : PerTimer α :=
  match t with
  | .t0 => { x with t0 := v }
  | .t1 => { x with t1 := v }
  | .t2 => { x with t2 := v }

/-- One value for each channel. -/
structure PerChannel (α : Type) where
  a : α
  b : α
deriving DecidableEq, Repr

/-- The entry of a channel. -/
def PerChannel.get {α : Type} (x : PerChannel α) : Channel → α
  | .a => x.a
  | .b => x.b

/-- One value for each WaveformMode. -/
structure PerMode (α : Type) where
  normal : α
  fast : α
  phase : α
  ctc : α
  pfc : α
deriving DecidableEq, Repr

/-- The entry of a waveform mode. -/
def PerMode.get {α : Type} (x : PerMode α) : WaveformMode → α
  | .normal => x.normal
  | .fast => x.fast
  | .phase => x.phase
  | .ctc => x.ctc
  | .pfc => x.pfc

/-- One value for each AdvancedModeSetting. -/
structure PerSetting (α : Type) where
  bits8 : α
  bits9 : α
  bits10 : α
  topOcra : α
  topIcr : α
deriving DecidableEq, Repr

/-- The entry of an advanced setting. -/
def PerSetting.get {α : Type} (x : PerSetting α) : AdvancedModeSetting → α
  | .bits8 => x.bits8
  | .bits9 => x.bits9
  | .bits10 => x.bits10
  | .topOcra => x.topOcra
  | .topIcr => x.topIcr

/-- One value for each OutputType. -/
structure PerOutput (α : Type) where
  disabled : α
  toggle : α
  enabled : α
  inverted : α
deriving DecidableEq, Repr

/-- The entry of an output type. -/
def PerOutput.get {α : Type} (x : PerOutput α) : OutputType → α
  | .disabled => x.disabled
  | .toggle => x.toggle
  | .enabled => x.enabled
  | .inverted => x.inverted

/-- One value for each FrequencyChoice. -/
structure PerFreq (α : Type) where
  f62500 : α
  f15625 : α
  f7812 : α
  f1953 : α
  f976 : α
  f488 : α
  f244 : α
  f61 : α
  f15 : α
deriving DecidableEq, Repr

/-- The entry of a frequency choice. -/
def PerFreq.get {α : Type} (x : PerFreq α) : FrequencyChoice → α
  | .f62500 => x.f62500
  | .f15625 => x.f15625
  | .f7812 => x.f7812
  | .f1953 => x.f1953
  | .f976 => x.f976
  | .f488 => x.f488
  | .f244 => x.f244
  | .f61 => x.f61
  | .f15 => x.f15

/-- One row of the pin-to-timer table (R68). -/
structure PinRow where
  pin : Pin
  timer : Timer
  channel : Channel
deriving DecidableEq, Repr

/-- The BoardProfile of R7. `none` in a table stands where the source's switch has no case (R13). A WGM pattern is held in
four bits; on T0 and T2 only its low three have a home (R20), and `BoardProfile.wf` says the fourth is clear. -/
structure BoardProfile where
  pinMap    : List PinRow
  width     : PerTimer Width
  modeImpl  : PerTimer Bool
  modeTable : PerTimer (PerMode (Option (BitVec 4)))
  advTable  : PerTimer (PerMode (PerSetting (Option (BitVec 4))))
  freqImpl  : PerTimer Bool
  freqTable : PerTimer (PerFreq (Option (BitVec 3)))
  outTable  : PerTimer (PerChannel (PerOutput (Option (BitVec 2))))
  fclk      : Nat
deriving DecidableEq, Repr

end Sys2Proof
end

