-- ==== Sys2Proof/Syntax.lean ====
section
/-! DEFINITION. The commands of the block: one constructor for each row of spec/opcode_table.json, with the operands in
the order of the assembler form (R65). Field values are raw: range checks belong to the operation rules (R64). -/

namespace Sys2Proof

/-- A decoded command (R54, R64). -/
inductive Instr where
  /-- RESOLVE pin (R70). -/
  | resolve (pin : Pin)
  /-- SETMODE pin, mode (R74). -/
  | setmode (pin : Pin) (mode : BitVec 3)
  /-- SETADV pin, mode, setting (R79). -/
  | setadv (pin : Pin) (mode setting : BitVec 3)
  /-- SETFREQ pin, freq (R88). -/
  | setfreq (pin : Pin) (freq : BitVec 5)
  /-- SETDUTY pin, percent (R96). -/
  | setduty (pin : Pin) (duty : BitVec 7)
  /-- SETOUT pin, otype (R103). -/
  | setout (pin : Pin) (otype : BitVec 3)
  /-- APPLY pin, mode, setting, otype, percent, freq (R109). -/
  | apply (pin : Pin) (mode setting otype : BitVec 3) (duty : BitVec 7) (freq : BitVec 5)
  /-- SETPHASE: op 7, the other 28 bits ignored (R113). -/
  | setphase (ignored : BitVec 28)
  /-- RESERVED: op 8 to 15, and every word of op 0 to 6 with a must-be-zero bit set (R63, R114); the whole word. -/
  | reserved (word : Word)
deriving DecidableEq, Repr

end Sys2Proof
end

