-- ==== Sys2Proof/WellFormed.lean ====
section
/-! DEFINITION. Which commands some word decodes to. Every field of a command is as wide as its encoding, so the one
check is on `reserved`: its word must match no row of R55 but the reserved ones. -/

namespace Sys2Proof

/-- The word selects one of the operations with op 0 to 7: the `match` and `mask` columns of R55. -/
def selectsNamedRow (w : Word) : Bool :=
  w &&& 0xF01FFFFF#32 == 0x00000000#32
    || w &&& 0xF01FFFF8#32 == 0x10000000#32
    || w &&& 0xF01FFFC0#32 == 0x20000000#32
    || w &&& 0xF000FFFF#32 == 0x30000000#32
    || w &&& 0xF01F01FF#32 == 0x40000000#32
    || w &&& 0xF01FFE3F#32 == 0x50000000#32
    || w &&& 0xF0000000#32 == 0x60000000#32
    || w &&& 0xF0000000#32 == 0x70000000#32

/-- A command that some word encodes (R55, R63): a `reserved` command holds a word no other row selects. -/
def Instr.wellFormed : Instr → Bool
  | .resolve _ => true
  | .setmode _ _ => true
  | .setadv _ _ _ => true
  | .setfreq _ _ => true
  | .setduty _ _ => true
  | .setout _ _ => true
  | .apply _ _ _ _ _ _ => true
  | .setphase _ => true
  | .reserved w => !selectsNamedRow w

end Sys2Proof
end

