-- ==== Sys2Proof/Decode.lean ====
section
/-! DEFINITION. The decoder of R64, total on every 32-bit word, and the encoder written from the field layout of R51. -/

namespace Sys2Proof

/-- The `op` field, bits 31:28 (R52). -/
def opField (w : Word) : BitVec 4 := w.extractLsb' 28 4

/-- The `pin` field, bits 27:21 (R52). -/
def pinField (w : Word) : Pin := w.extractLsb' 21 7

/-- The `freq` field, bits 20:16 (R52). -/
def freqField (w : Word) : BitVec 5 := w.extractLsb' 16 5

/-- The `duty` field, bits 15:9 (R52). -/
def dutyField (w : Word) : BitVec 7 := w.extractLsb' 9 7

/-- The `otype` field, bits 8:6 (R52). -/
def otypeField (w : Word) : BitVec 3 := w.extractLsb' 6 3

/-- The `setting` field, bits 5:3 (R52). -/
def settingField (w : Word) : BitVec 3 := w.extractLsb' 3 3

/-- The `mode` field, bits 2:0 (R52). -/
def modeField (w : Word) : BitVec 3 := w.extractLsb' 0 3

/-- The decoder, in the order of R64. A word no line of R64 takes is UNSUPPORTED: the RESERVED row. -/
def decode (w : Word) : Instr :=
  if opField w = 0 ∧ w.extractLsb' 0 21 = 0 then .resolve (pinField w)
  else if opField w = 1 ∧ w.extractLsb' 3 18 = 0 then .setmode (pinField w) (modeField w)
  else if opField w = 2 ∧ w.extractLsb' 6 15 = 0 then .setadv (pinField w) (modeField w) (settingField w)
  else if opField w = 3 ∧ w.extractLsb' 0 16 = 0 then .setfreq (pinField w) (freqField w)
  else if opField w = 4 ∧ w.extractLsb' 16 5 = 0 ∧ w.extractLsb' 0 9 = 0 then .setduty (pinField w) (dutyField w)
  else if opField w = 5 ∧ w.extractLsb' 9 12 = 0 ∧ w.extractLsb' 0 6 = 0 then .setout (pinField w) (otypeField w)
  else if opField w = 6 then
    .apply (pinField w) (modeField w) (settingField w) (otypeField w) (dutyField w) (freqField w)
  else if opField w = 7 then .setphase (w.extractLsb' 0 28)
  else .reserved w

/-- The fields of R51 in their places, `op` most significant. -/
def packWord (op : BitVec 4) (pin : Pin) (freq : BitVec 5) (duty : BitVec 7) (otype setting mode : BitVec 3) : Word :=
  op.setWidth 32 <<< 28 ||| pin.setWidth 32 <<< 21 ||| freq.setWidth 32 <<< 16 ||| duty.setWidth 32 <<< 9
    ||| otype.setWidth 32 <<< 6 ||| setting.setWidth 32 <<< 3 ||| mode.setWidth 32

/-- The word of a command: each operand in its field, the rest zero (R51, R55). -/
def encode : Instr → Word
  | .resolve pin => packWord 0 pin 0 0 0 0 0
  | .setmode pin mode => packWord 1 pin 0 0 0 0 mode
  | .setadv pin mode setting => packWord 2 pin 0 0 0 setting mode
  | .setfreq pin freq => packWord 3 pin freq 0 0 0 0
  | .setduty pin duty => packWord 4 pin 0 duty 0 0 0
  | .setout pin otype => packWord 5 pin 0 0 otype 0 0
  | .apply pin mode setting otype duty freq => packWord 6 pin freq duty otype setting mode
  | .setphase ignored => 7#32 <<< 28 ||| ignored.setWidth 32
  | .reserved w => w

/-- The command word whose low `nbits` bits are `w`; every row of the opcode table is one 32-bit word (R51). -/
def tableWord (nbits w : Nat) : Word := BitVec.ofNat 32 (w % 2 ^ nbits)

/-- What the decoder reads from a word of the opcode table. It refuses no word (R64). -/
def decodeTableWord (nbits w : Nat) : Option Instr := some (decode (tableWord nbits w))

/-- One row of the table in R55. -/
structure OpcodeRow where
  mnemonic : String
  value : Word
  mask : Word
deriving DecidableEq, Repr

/-- The table of R55. -/
def opcodeRows : List OpcodeRow :=
  [⟨"RESOLVE", 0x00000000#32, 0xF01FFFFF#32⟩, ⟨"SETMODE", 0x10000000#32, 0xF01FFFF8#32⟩,
   ⟨"SETADV", 0x20000000#32, 0xF01FFFC0#32⟩, ⟨"SETFREQ", 0x30000000#32, 0xF000FFFF#32⟩,
   ⟨"SETDUTY", 0x40000000#32, 0xF01F01FF#32⟩, ⟨"SETOUT", 0x50000000#32, 0xF01FFE3F#32⟩,
   ⟨"APPLY", 0x60000000#32, 0xF0000000#32⟩, ⟨"SETPHASE", 0x70000000#32, 0xF0000000#32⟩,
   ⟨"RESERVED", 0x80000000#32, 0x80000000#32⟩]

/-- A word selects a row when `word & mask = match` (R55). -/
def OpcodeRow.selects (r : OpcodeRow) (w : Word) : Bool := w &&& r.mask == r.value

/-- The opcode table's name of a command (R54). -/
def Instr.mnemonic : Instr → String
  | .resolve _ => "RESOLVE"
  | .setmode _ _ => "SETMODE"
  | .setadv _ _ _ => "SETADV"
  | .setfreq _ _ => "SETFREQ"
  | .setduty _ _ => "SETDUTY"
  | .setout _ _ => "SETOUT"
  | .apply _ _ _ _ _ _ => "APPLY"
  | .setphase _ => "SETPHASE"
  | .reserved _ => "RESERVED"

end Sys2Proof
end

