-- ==== Sys2Proof/Machine/Profile.lean ====
section
/-! DEFINITION. The default BoardProfile UNO328P, table by table from R16, R68, R76, R77, R82, R83, R90 and R104, and
what makes a profile well formed. -/

namespace Sys2Proof.Machine

/-- The pin-to-timer table of UNO328P (R68). -/
def unoPinMap : List PinRow :=
  [⟨3#7, .t2, .b⟩, ⟨5#7, .t0, .b⟩, ⟨6#7, .t0, .a⟩, ⟨9#7, .t1, .a⟩, ⟨10#7, .t1, .b⟩, ⟨11#7, .t2, .a⟩]

/-- `modeTable(T0)` and `modeTable(T2)` of UNO328P (R76). -/
def unoMode8 : PerMode (Option (BitVec 4)) :=
  { normal := some 0b000#4, fast := some 0b011#4, phase := some 0b001#4, ctc := some 0b010#4, pfc := none }

/-- `modeTable(T1)` of UNO328P (R77). -/
def unoMode16 : PerMode (Option (BitVec 4)) :=
  { normal := some 0b0000#4, fast := some 0b0101#4, phase := some 0b0001#4, ctc := some 0b0100#4, pfc := some 0b1000#4 }

/-- `advTable(T0)` and `advTable(T2)` of UNO328P (R82). -/
def unoAdv8 : PerMode (PerSetting (Option (BitVec 4))) :=
  { normal := ⟨none, none, none, none, none⟩
    fast := ⟨none, none, none, some 0b111#4, none⟩
    phase := ⟨none, none, none, some 0b101#4, none⟩
    ctc := ⟨none, none, none, some 0b010#4, none⟩
    pfc := ⟨none, none, none, none, none⟩ }

/-- `advTable(T1)` of UNO328P (R83). -/
def unoAdv16 : PerMode (PerSetting (Option (BitVec 4))) :=
  { normal := ⟨none, none, none, none, none⟩
    fast := ⟨some 0b0101#4, some 0b0110#4, some 0b0111#4, some 0b1111#4, some 0b1110#4⟩
    phase := ⟨some 0b0001#4, some 0b0010#4, some 0b0011#4, some 0b1011#4, some 0b1010#4⟩
    ctc := ⟨none, none, none, some 0b0100#4, some 0b1100#4⟩
    pfc := ⟨none, none, none, some 0b1001#4, some 0b1000#4⟩ }

/-- `freqTable` of UNO328P, a column of R90 for each timer. -/
def unoFreq : PerTimer (PerFreq (Option (BitVec 3))) :=
  { t0 := { f62500 := some 0b001#3, f15625 := none, f7812 := some 0b010#3, f1953 := none, f976 := some 0b011#3
            f488 := none, f244 := some 0b100#3, f61 := some 0b101#3, f15 := none }
    t1 := { f62500 := none, f15625 := some 0b001#3, f7812 := none, f1953 := some 0b010#3, f976 := none
            f488 := none, f244 := some 0b011#3, f61 := some 0b100#3, f15 := some 0b101#3 }
    t2 := { f62500 := some 0b001#3, f15625 := none, f7812 := some 0b010#3, f1953 := some 0b011#3
            f976 := some 0b100#3, f488 := some 0b101#3, f244 := some 0b110#3, f61 := some 0b111#3, f15 := none } }

/-- One channel's row of `outTable` in UNO328P, the same for every timer and channel (R104). -/
def unoOut : PerOutput (Option (BitVec 2)) :=
  { disabled := some 0b00#2, toggle := some 0b01#2, enabled := some 0b10#2, inverted := some 0b11#2 }

/-- The default profile UNO328P (R7). -/
def uno328p : BoardProfile :=
  { pinMap := unoPinMap
    width := ⟨.w8, .w16, .w8⟩
    modeImpl := ⟨true, true, true⟩
    modeTable := ⟨unoMode8, unoMode16, unoMode8⟩
    advTable := ⟨unoAdv8, unoAdv16, unoAdv8⟩
    freqImpl := ⟨true, true, true⟩
    freqTable := unoFreq
    outTable := ⟨⟨unoOut, unoOut⟩, ⟨unoOut, unoOut⟩, ⟨unoOut, unoOut⟩⟩
    fclk := 16000000 }

/-- The properties R69 asks of every pin table: no pin has two rows, and no two pins have one (timer, channel). -/
def pinMapWf (rows : List PinRow) : Bool :=
  decide ((rows.map (·.pin)).Nodup) && decide ((rows.map (fun r => (r.timer, r.channel))).Nodup)

/-- The number of bits of `WGM(t)` (R20). -/
def wgmBits : Timer → Nat
  | .t1 => 4
  | _ => 3

/-- The pattern of a table entry fits in `WGM(t)` (R20); an entry `none` does. -/
def wgmEntryFits (t : Timer) : Option (BitVec 4) → Bool
  | none => true
  | some w => decide (w.toNat < 2 ^ wgmBits t)

/-- The patterns of a timer's mode tables fit in its WGM field (R20). -/
def timerTablesWf (t : Timer) (modes : PerMode (Option (BitVec 4)))
    (advs : PerMode (PerSetting (Option (BitVec 4)))) : Bool :=
  [WaveformMode.normal, .fast, .phase, .ctc, .pfc].all fun m =>
    wgmEntryFits t (modes.get m) &&
      [AdvancedModeSetting.bits8, .bits9, .bits10, .topOcra, .topIcr].all fun a =>
        wgmEntryFits t ((advs.get m).get a)

/-- A BoardProfile that is of the kind R7 describes: the pin table as R69 says, every WGM pattern as wide as the timer's
field (R20), and a positive clock (R7). -/
def profileWf (b : BoardProfile) : Bool :=
  pinMapWf b.pinMap && decide (0 < b.fclk) &&
    [Timer.t0, .t1, .t2].all fun t => timerTablesWf t (b.modeTable.get t) (b.advTable.get t)

end Sys2Proof.Machine
end

