-- ==== Sys2Proof/Machine/State.lean ====
section
/-! DEFINITION. The state of the machine as plain data: the twelve timer registers (R15), RESULT (R30), the refusal mark
(R118) and the write trace (R10, R29), the board profile (R7, R132), the commands other contexts have in progress (R47 to
R49), and what the callers and outside agents do next (R31, R124); with the reasons a step stops and the reset state. -/

namespace Sys2Proof.Machine

/-- The two control registers of a timer (R15). -/
inductive CtrlName where
  | a | b
deriving DecidableEq, Repr

/-- The four registers of a timer by name (R15). -/
inductive RegName where
  | ctrl (c : CtrlName)
  | ocr (ch : Channel)
deriving DecidableEq, Repr

/-- One of the twelve registers of the timer register space (R15, R37). -/
structure Reg where
  timer : Timer
  name : RegName
deriving DecidableEq, Repr

/-- The registers of one timer (R15). A compare register is held in 16 bits; on an 8-bit timer its value stays below 256
(R16, R23). -/
structure TimerRegs where
  ctrlA : Byte
  ctrlB : Byte
  ocrA : Half
  ocrB : Half
deriving DecidableEq, Repr

/-- The timer register space (R37). -/
abbrev Timers := PerTimer TimerRegs

/-- The status codes of R115. -/
inductive Status where
  | ok | invalidPin | invalidFrequency | invalidDutyCycleValue | undefinedValue | unsupported
deriving DecidableEq, Repr

/-- The parts of APPLY, stages 1 to 4 (R53, R110). -/
inductive Stage where
  | setadv | setfreq | setduty | setout
deriving DecidableEq, Repr

/-- What a command answers, before it is laid out as the result word of R53: its status, for APPLY the part that failed,
and for RESOLVE the owner of the pin. -/
structure Answer where
  status : Status
  stage : Option Stage
  owner : Option (Timer × Channel)
deriving DecidableEq, Repr

/-- One entry of a command's trace: a GPIO request (R29) or a register write with the value written (R10). -/
inductive Event where
  | gpioOut (pin : Pin)
  | wrote (r : Reg) (v : Half)
deriving DecidableEq, Repr

/-- One primitive of an operation rule (R10, R47): the GPIO request, a read-modify-write of a control register (a read
and then a write; no compare register is ever read, R40), and the write of a whole register. -/
inductive Access where
  | gpio (pin : Pin)
  | rmw (t : Timer) (c : CtrlName) (clearMask setMask : Byte)
  | write (r : Reg) (v : Half)
deriving DecidableEq, Repr

/-- A command another execution context has begun and not completed (R48, R49): what it has still to do, whether it has
made a register access, its trace so far, and the answer it will give. -/
structure InFlight where
  rest : List Access
  touched : Bool
  trace : List Event
  answer : Answer
deriving DecidableEq, Repr

/-- What the agents outside the block do next (R124, R48, R49). No context has a number the block sees (R125): a command in
progress is named by its timer, of which it is the only one. -/
inductive Input where
  /-- A caller issues a command word, and no other agent acts until it completes. -/
  | command (w : Word)
  /-- A caller issues a command word; other agents may act before it completes. -/
  | start (w : Word)
  /-- The command in progress on a timer makes its next access. -/
  | advance (t : Timer)
  /-- An agent outside the block writes a timer register (R34, R49). -/
  | foreignWrite (r : Reg) (v : Half)
  /-- An agent outside the block uses the shared temporary register of a 16-bit timer (R41, R139). -/
  | tempUse (t : Timer)
deriving DecidableEq, Repr

/-- The machine's state. -/
structure State where
  /-- The twelve registers CTRL_A, CTRL_B, OCR_A and OCR_B of T0, T1 and T2 (R15). -/
  timers : Timers
  /-- RESULT, the answer of the last completed command (R30, R53). -/
  result : Word
  /-- The refusal mark, set for the whole run once a command completes Unsupported (R118). -/
  refusalMark : Bool
  /-- The trace of the last completed command: its register writes and GPIO requests in order (R10, R29). -/
  trace : List Event
  /-- The BoardProfile of the run (R7); no step changes it (R132). -/
  board : BoardProfile
  /-- The command in progress on each timer, if there is one (R48, R49). -/
  inFlight : PerTimer (Option InFlight)
  /-- What the callers and the agents outside the block do next, in order (R31). -/
  inputs : List Input
deriving DecidableEq, Repr

/-- Why a run stops. -/
inductive Fault where
  /-- ConcurrentAccess (R49): raised when a command starts on a timer that has a command in progress, when an outside agent
  writes a register of a timer between two accesses of a command on it, and when an outside agent uses a timer's shared
  temporary register, or writes one of its 16-bit compare registers, while a 16-bit compare write is pending (R41). Safe: nothing is claimed of such a run. -/
  | concurrentAccess
deriving DecidableEq, Repr

/-- Why an instruction has no meaning here. -/
inductive Refusal where
  /-- Raised by no arm of exec: every row of the opcode table has its meaning. Safe. -/
  | notModelled (mnemonic : String)
deriving DecidableEq, Repr

/-- The register values after the chip's reset (R35). -/
def TimerRegs.zero : TimerRegs := ⟨0, 0, 0, 0⟩

/-- A machine whose registers hold `timers` at its first command, for the board `b`: the parameter `init` of R35. RESULT
is 0 (R36), nothing is in progress and no refusal is recorded. -/
def State.init (b : BoardProfile) (timers : Timers) : State :=
  { timers := timers, result := 0, refusalMark := false, trace := [], board := b
    inFlight := ⟨none, none, none⟩, inputs := [] }

/-- The machine right after reset (R35, R36, R131), on the default profile UNO328P (R7). -/
def State.reset : State := State.init uno328p ⟨TimerRegs.zero, TimerRegs.zero, TimerRegs.zero⟩

end Sys2Proof.Machine
end

