-- ==== Sys2Proof/Machine/Flags.lean ====
section
/-! DEFINITION. The block has no flags (R33): its only status is in RESULT. Here are the status codes (R115) and the
layout of the result word (R53). -/

namespace Sys2Proof.Machine

/-- The code of a status (R115). -/
def statusCode : Status → BitVec 3
  | .ok => 0
  | .invalidPin => 1
  | .invalidFrequency => 2
  | .invalidDutyCycleValue => 3
  | .undefinedValue => 4
  | .unsupported => 5

/-- The number of an APPLY part (R53, R112). -/
def stageCode : Stage → BitVec 3
  | .setadv => 1
  | .setfreq => 2
  | .setduty => 3
  | .setout => 4

/-- `index(t)` of R70. -/
def timerIndex : Timer → BitVec 2
  | .t0 => 0
  | .t1 => 1
  | .t2 => 2

/-- The channel bit of R70. -/
def channelBit : Channel → BitVec 1
  | .a => 0
  | .b => 1

/-- The `rv`, `ch` and `tmr` fields side by side (R53): all zero but for a RESOLVE that found an owner. -/
def ownerField : Option (Timer × Channel) → BitVec 4
  | none => 0
  | some (t, ch) => 8#4 ||| (channelBit ch).setWidth 4 <<< 2 ||| (timerIndex t).setWidth 4

/-- The `stage` field (R53): zero where no part of an APPLY failed. -/
def stageField : Option Stage → BitVec 3
  | none => 0
  | some k => stageCode k

/-- The result word of an answer (R53). -/
def resultWord (x : Answer) : Word :=
  (stageField x.stage).setWidth 32 <<< 12 ||| (ownerField x.owner).setWidth 32 <<< 8 ||| (statusCode x.status).setWidth 32

/-- `result(OK, 0)` (R10). -/
def okAnswer : Answer := ⟨.ok, none, none⟩

/-- `raise st`: the answer `result(st, 0)` (R10). -/
def raised (st : Status) : Answer := ⟨st, none, none⟩

end Sys2Proof.Machine
end

