-- ==== Sys2Proof/Machine/Operands.lean ====
section
/-! DEFINITION. What an operand field of a command names: the enumeration members of R56, R58, R59 and R60, the owner of a
pin (R67), and what the profile's tables give for them. -/

namespace Sys2Proof.Machine

/-- The WaveformMode of a code; none where the code is out of range (R56, R57). -/
def modeOfCode (c : BitVec 3) : Option WaveformMode :=
  match c.toNat with
  | 0 => some .normal
  | 1 => some .fast
  | 2 => some .phase
  | 3 => some .ctc
  | 4 => some .pfc
  | _ => none

/-- The AdvancedModeSetting of a code; none where the code is out of range (R57, R58). -/
def settingOfCode (c : BitVec 3) : Option AdvancedModeSetting :=
  match c.toNat with
  | 0 => some .bits8
  | 1 => some .bits9
  | 2 => some .bits10
  | 3 => some .topOcra
  | 4 => some .topIcr
  | _ => none

/-- The OutputType of a code; none where the code is out of range (R57, R59). -/
def outputOfCode (c : BitVec 3) : Option OutputType :=
  match c.toNat with
  | 0 => some .disabled
  | 1 => some .toggle
  | 2 => some .enabled
  | 3 => some .inverted
  | _ => none

/-- The FrequencyChoice of a code; none for 0 and 10 to 31, which name no choice of any timer (R60). -/
def freqOfCode (c : BitVec 5) : Option FrequencyChoice :=
  match c.toNat with
  | 1 => some .f62500
  | 2 => some .f15625
  | 3 => some .f7812
  | 4 => some .f1953
  | 5 => some .f976
  | 6 => some .f488
  | 7 => some .f244
  | 8 => some .f61
  | 9 => some .f15
  | _ => none

/-- `resolve(pin)`, the profile's pin-to-timer table (R67). -/
def resolvePin (b : BoardProfile) (pin : Pin) : Option (Timer × Channel) :=
  (b.pinMap.find? fun r => r.pin == pin).map fun r => (r.timer, r.channel)

/-- The base pattern of a mode: its table entry, or 0 where the table has none, the safe default (R74, R75). -/
def basePattern (b : BoardProfile) (t : Timer) (m : WaveformMode) : BitVec 4 :=
  ((b.modeTable.get t).get m).getD 0

/-- `advTable(t)(mode)(setting)` (R79). -/
def refinement (b : BoardProfile) (t : Timer) (m : WaveformMode) (a : AdvancedModeSetting) : Option (BitVec 4) :=
  ((b.advTable.get t).get m).get a

/-- `freqTable(t)(freq)` for a code (R91): none for a choice the timer lacks and for a code that names no choice. -/
def csPattern (b : BoardProfile) (t : Timer) (code : BitVec 5) : Option (BitVec 3) :=
  (freqOfCode code).bind fun f => (b.freqTable.get t).get f

/-- The COM pattern of an output type: its table entry, or 0b00 where the table has none, the safe default (R103, R105). -/
def comPattern (b : BoardProfile) (t : Timer) (ch : Channel) (o : OutputType) : BitVec 2 :=
  (((b.outTable.get t).get ch).get o).getD 0

/-- `max(t) = 2^width(t) - 1` (R16, R95). -/
def maxCount (b : BoardProfile) (t : Timer) : Nat := 2 ^ (b.width.get t).bits - 1

/-- `duty_value(t, p)`: the exact product, then floor division (R95, R99). -/
def dutyValue (b : BoardProfile) (t : Timer) (p : Nat) : Nat := p * maxCount b t / 100

end Sys2Proof.Machine
end

