-- ==== Sys2Proof/Machine/Ops.lean ====
section
/-! DEFINITION. The primitives of R10 over the timer registers, the named fields of R20 to R23, a command as a plan of
accesses with an answer (R47), and running a plan: the one operation every meaning goes through. The block takes no trap
(R116): a failing command completes with its error status, so ending a command is the only exit there is. -/

namespace Sys2Proof.Machine

/-- `R[r]`: the value of a register, zero-extended to 16 bits (R9, R10). -/
def readReg (ts : Timers) (r : Reg) : Half :=
  match r.name with
  | .ctrl .a => (ts.get r.timer).ctrlA.setWidth 16
  | .ctrl .b => (ts.get r.timer).ctrlB.setWidth 16
  | .ocr .a => (ts.get r.timer).ocrA
  | .ocr .b => (ts.get r.timer).ocrB

/-- A value as a compare register of the timer holds it: its low `width(t)` bits (R15, R23). -/
def fitOcr (b : BoardProfile) (t : Timer) (v : Half) : Half :=
  match b.width.get t with
  | .w8 => (v.setWidth 8).setWidth 16
  | .w16 => v

/-- `R[r] <- v`: one write of a whole register (R10, R23, R40). -/
def writeReg (b : BoardProfile) (ts : Timers) (r : Reg) (v : Half) : Timers :=
  let x := ts.get r.timer
  match r.name with
  | .ctrl .a => ts.set r.timer { x with ctrlA := v.setWidth 8 }
  | .ctrl .b => ts.set r.timer { x with ctrlB := v.setWidth 8 }
  | .ocr .a => ts.set r.timer { x with ocrA := fitOcr b r.timer v }
  | .ocr .b => ts.set r.timer { x with ocrB := fitOcr b r.timer v }

/-- The value an RMW writes, from the value it read (R10). -/
def rmwValue (old : Half) (clearMask setMask : Byte) : Half :=
  ((old.setWidth 8 &&& ~~~clearMask) ||| setMask).setWidth 16

/-- One primitive, on the registers and the trace (R10, R29). -/
def perform (b : BoardProfile) (x : Timers × List Event) : Access → Timers × List Event
  | .gpio pin => (x.1, x.2 ++ [.gpioOut pin])
  | .rmw t c clearMask setMask =>
      let v := rmwValue (readReg x.1 ⟨t, .ctrl c⟩) clearMask setMask
      (writeReg b x.1 ⟨t, .ctrl c⟩ v, x.2 ++ [.wrote ⟨t, .ctrl c⟩ v])
  | .write r v => (writeReg b x.1 r v, x.2 ++ [.wrote r v])

/-- Primitives one after the other, each visible to the next (R44). -/
def performAll (b : BoardProfile) (x : Timers × List Event) (as : List Access) : Timers × List Event :=
  as.foldl (perform b) x

/-- The mask of the high WGM bits in CTRL_B, `hiMask(t)` (R74). -/
def hiMask : Timer → Byte
  | .t1 => 0b00011000
  | _ => 0b00001000

/-- The high bits of a WGM pattern where CTRL_B holds them, `hiBits(t, w)` (R74). -/
def hiBits (t : Timer) (w : BitVec 4) : Byte :=
  match t with
  | .t1 => (w.extractLsb' 2 2).setWidth 8 <<< 3
  | _ => (w.extractLsb' 2 1).setWidth 8 <<< 3

/-- The low bits of a WGM pattern where CTRL_A holds them, `w[1:0]` (R20). -/
def loBits (w : BitVec 4) : Byte := (w.extractLsb' 0 2).setWidth 8

/-- The two RMWs of `WGM(t) <- w`, CTRL_A before CTRL_B (R20, R73). -/
def wgmAccesses (t : Timer) (w : BitVec 4) : List Access :=
  [.rmw t .a 0b00000011 (loBits w), .rmw t .b (hiMask t) (hiBits t w)]

/-- The bit position of a channel's COM field in CTRL_A (R103). -/
def comShift : Channel → Nat
  | .a => 6
  | .b => 4

/-- The RMW of `COM(t, ch) <- m` (R22, R103). -/
def comAccess (t : Timer) (ch : Channel) (m : BitVec 2) : Access :=
  .rmw t .a (0b11#8 <<< comShift ch) (m.setWidth 8 <<< comShift ch)

/-- `WGM(t)`, in four bits; the fourth is 0 on T0 and T2 (R20). -/
def wgmField (ts : Timers) (t : Timer) : BitVec 4 :=
  match t with
  | .t1 => ((ts.get t).ctrlB.extractLsb' 3 2).setWidth 4 <<< 2 ||| ((ts.get t).ctrlA.extractLsb' 0 2).setWidth 4
  | _ => ((ts.get t).ctrlB.extractLsb' 3 1).setWidth 4 <<< 2 ||| ((ts.get t).ctrlA.extractLsb' 0 2).setWidth 4

/-- The bits of a four-bit pattern that `WGM(t)` has a place for (R20). -/
def wgmMask : Timer → BitVec 4
  | .t1 => 0b1111
  | _ => 0b0111

/-- `CS(t)` (R21). -/
def csField (ts : Timers) (t : Timer) : BitVec 3 := (ts.get t).ctrlB.extractLsb' 0 3

/-- `COM(t, ch)` (R22). -/
def comField (ts : Timers) (t : Timer) (ch : Channel) : BitVec 2 := (ts.get t).ctrlA.extractLsb' (comShift ch) 2

/-- `OCR(t, ch)` (R23). -/
def ocrField (ts : Timers) (t : Timer) (ch : Channel) : Half := readReg ts ⟨t, .ocr ch⟩

/-- `WGM(t) <- w` on the registers (R20). -/
def writeWgm (b : BoardProfile) (ts : Timers) (t : Timer) (w : BitVec 4) : Timers :=
  (performAll b (ts, []) (wgmAccesses t w)).1

/-- The accesses an operation's body makes and the status it ends with (R109: "part X runs the body of rule ..."). -/
structure Body where
  accesses : List Access
  status : Status
deriving DecidableEq, Repr

/-- A whole command: the timer it is on, if its pin has one, its accesses in order, and its answer (R47). -/
structure Plan where
  timer : Option Timer
  accesses : List Access
  answer : Answer
deriving DecidableEq, Repr

/-- A command that ends before it knows a timer: `raise st` with no access (R10, R63, R71). -/
def rejectPlan (st : Status) : Plan := ⟨none, [], raised st⟩

/-- A command on timer `t` that is one body (R79, R88, R96, R103). -/
def bodyPlan (t : Timer) (x : Body) : Plan := ⟨some t, x.accesses, raised x.status⟩

/-- The step every operation but RESOLVE begins with: the pin's timer and channel, or `raise InvalidPin` (R71). -/
def planAt (b : BoardProfile) (pin : Pin) (f : Timer → Channel → Plan) : Plan :=
  match resolvePin b pin with
  | none => rejectPlan .invalidPin
  | some (t, ch) => f t ch

/-- A body behind the check that the timer's table exists, else Unsupported with no access (R86, R94). -/
def whenImpl (impl : Bool) (x : Body) : Body := if impl then x else ⟨[], .unsupported⟩

/-- A command is in progress on the timer (R49). -/
def isBusy (s : State) (t : Timer) : Bool := (s.inFlight.get t).isSome

/-- A command on this timer may not start: another on it has begun and not completed (R49). -/
def clashes (s : State) : Option Timer → Bool
  | none => false
  | some t => isBusy s t

/-- A command completes: RESULT is loaded and its trace kept (R30), and the refusal mark is set if it completed
Unsupported (R118). -/
def complete (s : State) (timers : Timers) (trace : List Event) (x : Answer) : State :=
  { s with timers := timers, trace := trace, result := resultWord x
           refusalMark := s.refusalMark || x.status == .unsupported }

/-- A command runs from start to completion with no other agent in between (R44, R120). -/
def runPlan (p : Plan) (s : State) : Host.Outcome State Fault Refusal :=
  if clashes s p.timer then .fault .concurrentAccess
  else
    let x := performAll s.board (s.timers, []) p.accesses
    .next (complete s x.1 x.2 p.answer)

end Sys2Proof.Machine
end

