-- ==== Sys2Proof/Machine/Duty.lean ====
section
/-! DEFINITION. The duty-cycle to compare-register mapper: SETDUTY (R96). -/

namespace Sys2Proof.Machine

/-- The body of SETDUTY after the pin check: one write of the channel's compare register, or InvalidDutyCycleValue with
no access above 100 (R96, R97). -/
def setdutyBody (b : BoardProfile) (t : Timer) (ch : Channel) (duty : BitVec 7) : Body :=
  if duty.toNat > 100 then ⟨[], .invalidDutyCycleValue⟩
  else ⟨[.write ⟨t, .ocr ch⟩ (BitVec.ofNat 16 (dutyValue b t duty.toNat))], .ok⟩

/-- SETDUTY as a plan (R96). -/
def setdutyPlan (b : BoardProfile) (pin : Pin) (duty : BitVec 7) : Plan :=
  planAt b pin fun t ch => bodyPlan t (setdutyBody b t ch duty)

/-- SETDUTY pin, percent (R96). -/
def execSetduty (pin : Pin) (duty : BitVec 7) (s : State) : Host.Outcome State Fault Refusal :=
  runPlan (setdutyPlan s.board pin duty) s

end Sys2Proof.Machine
end

