-- ==== Sys2Proof/Machine/Freq.lean ====
section
/-! DEFINITION. The prescaler frequency encoder: SETFREQ (R88). -/

namespace Sys2Proof.Machine

/-- The body of SETFREQ after the pin and table checks: the unconditional clear of CS, then the choice's pattern, or
InvalidFrequency with CS left clear (R88, R89, R91). -/
def setfreqBody (b : BoardProfile) (t : Timer) (freq : BitVec 5) : Body :=
  match csPattern b t freq with
  | none => ⟨[.rmw t .b 0b00000111 0], .invalidFrequency⟩
  | some c => ⟨[.rmw t .b 0b00000111 0, .rmw t .b 0 (c.setWidth 8)], .ok⟩

/-- SETFREQ as a plan (R88). -/
def setfreqPlan (b : BoardProfile) (pin : Pin) (freq : BitVec 5) : Plan :=
  planAt b pin fun t _ => bodyPlan t (whenImpl (b.freqImpl.get t) (setfreqBody b t freq))

/-- SETFREQ pin, freq (R88). -/
def execSetfreq (pin : Pin) (freq : BitVec 5) (s : State) : Host.Outcome State Fault Refusal :=
  runPlan (setfreqPlan s.board pin freq) s

end Sys2Proof.Machine
end

