-- ==== Sys2Proof/Machine/Mode.lean ====
section
/-! DEFINITION. The waveform-mode bit encoder: SETMODE (R74) and SETADV (R79). -/

namespace Sys2Proof.Machine

/-- The body of SETMODE after the pin and table checks (R74). -/
def setmodeBody (b : BoardProfile) (t : Timer) (mode : BitVec 3) : Body :=
  match modeOfCode mode with
  | none => ⟨[], .undefinedValue⟩
  | some m => ⟨wgmAccesses t (basePattern b t m), .ok⟩

/-- The overlay's accesses: only the registers whose WGM bits the refinement changes, CTRL_A before CTRL_B (R79). -/
def overlayAccesses (t : Timer) (base r : BitVec 4) : List Access :=
  let setBits := r &&& ~~~base
  let clrBits := base &&& ~~~r
  (if loBits (setBits ||| clrBits) = 0 then [] else [.rmw t .a (loBits clrBits) (loBits setBits)]) ++
    (if hiBits t (setBits ||| clrBits) = 0 then [] else [.rmw t .b (hiBits t clrBits) (hiBits t setBits)])

/-- The body of SETADV after the pin and table checks: the base mode, then the overlay where the table has one (R79,
R81). -/
def setadvBody (b : BoardProfile) (t : Timer) (mode setting : BitVec 3) : Body :=
  match modeOfCode mode, settingOfCode setting with
  | some m, some a =>
      let base := basePattern b t m
      ⟨wgmAccesses t base ++
        (match refinement b t m a with
         | none => []
         | some r => overlayAccesses t base r), .ok⟩
  | _, _ => ⟨[], .undefinedValue⟩

/-- SETMODE as a plan (R74). -/
def setmodePlan (b : BoardProfile) (pin : Pin) (mode : BitVec 3) : Plan :=
  planAt b pin fun t _ => bodyPlan t (whenImpl (b.modeImpl.get t) (setmodeBody b t mode))

/-- SETADV as a plan (R79). -/
def setadvPlan (b : BoardProfile) (pin : Pin) (mode setting : BitVec 3) : Plan :=
  planAt b pin fun t _ => bodyPlan t (whenImpl (b.modeImpl.get t) (setadvBody b t mode setting))

/-- SETMODE pin, mode (R74). -/
def execSetmode (pin : Pin) (mode : BitVec 3) (s : State) : Host.Outcome State Fault Refusal :=
  runPlan (setmodePlan s.board pin mode) s

/-- SETADV pin, mode, setting (R79). -/
def execSetadv (pin : Pin) (mode setting : BitVec 3) (s : State) : Host.Outcome State Fault Refusal :=
  runPlan (setadvPlan s.board pin mode setting) s

end Sys2Proof.Machine
end

