-- ==== Sys2Proof/Machine/Output.lean ====
section
/-! DEFINITION. The output-control encoder: SETOUT (R103). -/

namespace Sys2Proof.Machine

/-- The body of SETOUT after the pin check: one RMW of the channel's COM field, or UndefinedValue with no access for a
code out of range (R103). -/
def setoutBody (b : BoardProfile) (t : Timer) (ch : Channel) (otype : BitVec 3) : Body :=
  match outputOfCode otype with
  | none => ⟨[], .undefinedValue⟩
  | some o => ⟨[comAccess t ch (comPattern b t ch o)], .ok⟩

/-- SETOUT as a plan (R103). -/
def setoutPlan (b : BoardProfile) (pin : Pin) (otype : BitVec 3) : Plan :=
  planAt b pin fun t ch => bodyPlan t (setoutBody b t ch otype)

/-- SETOUT pin, otype (R103). -/
def execSetout (pin : Pin) (otype : BitVec 3) (s : State) : Host.Outcome State Fault Refusal :=
  runPlan (setoutPlan s.board pin otype) s

end Sys2Proof.Machine
end

