-- ==== Sys2Proof/Machine/Batch.lean ====
section
/-! DEFINITION. Batch apply (APPLY, R109), phase offset (SETPHASE, R113) and the reserved commands (R114). -/

namespace Sys2Proof.Machine

/-- The parts of an APPLY in turn: a part that is not OK ends it with its status and stage, and the accesses of the parts
before it and its own stay (R109, R112). -/
def runParts : List (Stage × Body) → List Access × Answer
  | [] => ([], okAnswer)
  | (k, x) :: rest =>
      if x.status = .ok then (x.accesses ++ (runParts rest).1, (runParts rest).2)
      else (x.accesses, ⟨x.status, some k, none⟩)

/-- APPLY once its pin and both tables are there: the GPIO request, then mode, frequency, duty and output (R109 to
R112). -/
def applyParts (b : BoardProfile) (t : Timer) (ch : Channel) (mode setting otype : BitVec 3) (duty : BitVec 7)
    (freq : BitVec 5) : List (Stage × Body) :=
  [(.setadv, setadvBody b t mode setting), (.setfreq, setfreqBody b t freq), (.setduty, setdutyBody b t ch duty),
   (.setout, setoutBody b t ch otype)]

/-- APPLY as a plan (R109). -/
def applyPlan (b : BoardProfile) (pin : Pin) (mode setting otype : BitVec 3) (duty : BitVec 7) (freq : BitVec 5) : Plan :=
  planAt b pin fun t ch =>
    if b.modeImpl.get t && b.freqImpl.get t then
      let x := runParts (applyParts b t ch mode setting otype duty freq)
      ⟨some t, .gpio pin :: x.1, x.2⟩
    else ⟨some t, [], raised .unsupported⟩

/-- SETPHASE as a plan: Unsupported, whatever the other bits; no pin check, no access, no request (R113). -/
def setphasePlan (_ignored : BitVec 28) : Plan := rejectPlan .unsupported

/-- A reserved word as a plan: Unsupported, no pin check, no access, no request (R114). -/
def reservedPlan (_word : Word) : Plan := rejectPlan .unsupported

/-- APPLY pin, mode, setting, otype, percent, freq (R109). -/
def execApply (pin : Pin) (mode setting otype : BitVec 3) (duty : BitVec 7) (freq : BitVec 5) (s : State) :
    Host.Outcome State Fault Refusal :=
  runPlan (applyPlan s.board pin mode setting otype duty freq) s

/-- SETPHASE (R113). -/
def execSetphase (ignored : BitVec 28) (s : State) : Host.Outcome State Fault Refusal :=
  runPlan (setphasePlan ignored) s

/-- A reserved word (R114). -/
def execReserved (word : Word) (s : State) : Host.Outcome State Fault Refusal := runPlan (reservedPlan word) s

end Sys2Proof.Machine
end

