-- ==== Sys2Proof/Machine/Resolve.lean ====
section
/-! DEFINITION. The pin-to-timer multiplexer: RESOLVE (R70). -/

namespace Sys2Proof.Machine

/-- RESOLVE makes no access; it answers with the pin's owner or InvalidPin (R70). It is on no timer, so it never clashes. -/
def resolvePlan (b : BoardProfile) (pin : Pin) : Plan :=
  match resolvePin b pin with
  | none => rejectPlan .invalidPin
  | some o => ⟨none, [], ⟨.ok, none, some o⟩⟩

/-- RESOLVE pin (R70). -/
def execResolve (pin : Pin) (s : State) : Host.Outcome State Fault Refusal := runPlan (resolvePlan s.board pin) s

end Sys2Proof.Machine
end

