-- ==== Sys2Proof/Machine/Dispatch.lean ====
section
/-! DEFINITION. One arm for each command (R54): what it does, run from start to completion. -/

namespace Sys2Proof.Machine

/-- The meaning of a command (R54). -/
def exec (i : Instr) (s : State) : Host.Outcome State Fault Refusal :=
  match i with
  | .resolve pin => Sys2Proof.Machine.execResolve pin s
  | .setmode pin mode => Sys2Proof.Machine.execSetmode pin mode s
  | .setadv pin mode setting => Sys2Proof.Machine.execSetadv pin mode setting s
  | .setfreq pin freq => Sys2Proof.Machine.execSetfreq pin freq s
  | .setduty pin duty => Sys2Proof.Machine.execSetduty pin duty s
  | .setout pin otype => Sys2Proof.Machine.execSetout pin otype s
  | .apply pin mode setting otype duty freq => Sys2Proof.Machine.execApply pin mode setting otype duty freq s
  | .setphase ignored => Sys2Proof.Machine.execSetphase ignored s
  | .reserved word => Sys2Proof.Machine.execReserved word s

end Sys2Proof.Machine
end

