-- ==== Sys2Proof/Machine/Callers.lean ====
section
/-! DEFINITION. The agents outside the block (R124): how a caller's command word reaches exec, how a command that others
may interleave with runs access by access (R47, R48), and the ConcurrentAccess fault (R49). -/

namespace Sys2Proof.Machine

/-- The plan of a command (R47). -/
def planOf (b : BoardProfile) : Instr → Plan
  | .resolve pin => resolvePlan b pin
  | .setmode pin mode => setmodePlan b pin mode
  | .setadv pin mode setting => setadvPlan b pin mode setting
  | .setfreq pin freq => setfreqPlan b pin freq
  | .setduty pin duty => setdutyPlan b pin duty
  | .setout pin otype => setoutPlan b pin otype
  | .apply pin mode setting otype duty freq => applyPlan b pin mode setting otype duty freq
  | .setphase ignored => setphasePlan ignored
  | .reserved word => reservedPlan word

/-- A command begins and has its accesses before it. One that makes none completes at once (R71, R63); one on a timer with
a command in progress is the fault of R49. -/
def beginPlan (p : Plan) (s : State) : Host.Outcome State Fault Refusal :=
  if clashes s p.timer then .fault .concurrentAccess
  else
    match p.timer, p.accesses with
    | some t, a :: as => .next { s with inFlight := s.inFlight.set t (some ⟨a :: as, false, [], p.answer⟩) }
    | _, as =>
        let x := performAll s.board (s.timers, []) as
        .next (complete s x.1 x.2 p.answer)

/-- The command in progress on `t` has made its next access and has `rest` before it; with nothing left it completes
(R120, R143). -/
def afterAccess (t : Timer) (f : InFlight) (rest : List Access) (touched : Bool) (timers : Timers) (trace : List Event)
    (s : State) : State :=
  match rest with
  | [] => complete { s with inFlight := s.inFlight.set t none } timers trace f.answer
  | a :: as =>
      { s with timers := timers, inFlight := s.inFlight.set t (some ⟨a :: as, touched, trace, f.answer⟩) }

/-- The next access of the command in progress on `t`. An RMW is a read and then a write, two accesses (R47): the read
leaves the write of the value it computed. With no command in progress there is nothing to do. -/
def advanceCommand (t : Timer) (s : State) : State :=
  match s.inFlight.get t with
  | none => s
  | some f =>
      match f.rest with
      | [] => afterAccess t f [] f.touched s.timers f.trace s
      | .rmw u c clearMask setMask :: rest =>
          let v := rmwValue (readReg s.timers ⟨u, .ctrl c⟩) clearMask setMask
          afterAccess t f (.write ⟨u, .ctrl c⟩ v :: rest) true s.timers f.trace s
      | .gpio pin :: rest =>
          let x := perform s.board (s.timers, f.trace) (.gpio pin)
          afterAccess t f rest f.touched x.1 x.2 s
      | .write r v :: rest =>
          let x := perform s.board (s.timers, f.trace) (.write r v)
          afterAccess t f rest true x.1 x.2 s

/-- The bits of a register that hold what an agent writes; the others read as zero: CTRL_A[3:2], the FOC strobes and
bits 5:4 of T0 and T2's CTRL_B, bit 5 of T1's CTRL_B (R17, R18, R19). -/
def heldBits (b : BoardProfile) (r : Reg) : Half :=
  match r.timer, r.name with
  | _, .ctrl .a => 0x00F3
  | .t1, .ctrl .b => 0x00DF
  | _, .ctrl .b => 0x000F
  | t, .ocr _ => BitVec.ofNat 16 (maxCount b t)

/-- A command on `t` has made a register access and is not complete: a write by another agent now falls between two of its
accesses (R49). -/
def isMidway (s : State) (t : Timer) : Bool :=
  match s.inFlight.get t with
  | none => false
  | some f => f.touched

/-- A register of this name on `t` is a 16-bit compare register, written through the timer's shared temporary register
(R40, R41). -/
def usesTemp (b : BoardProfile) (t : Timer) : RegName → Bool
  | .ocr _ => decide (b.width.get t = .w16)
  | .ctrl _ => false

/-- The next access of the command in progress on `t` is the write of a 16-bit compare register (R41). -/
def compareWritePending (s : State) (t : Timer) : Bool :=
  match s.inFlight.get t with
  | none => false
  | some f =>
      match f.rest with
      | .write r _ :: _ => usesTemp s.board t r.name
      | _ => false

/-- An agent outside the block uses the shared temporary register of a timer: a fault while a 16-bit compare write of a
command is pending, since on the chip it would fall between the two byte writes (R41, R139). It changes no register of
R15. -/
def tempUse (t : Timer) (s : State) : Host.Outcome State Fault Refusal :=
  if compareWritePending s t then .fault .concurrentAccess else .next s

/-- An outside write to this register is the fault of R49: it falls between two accesses of a command on the register's
timer, or it uses the shared temporary register while a 16-bit compare write of a command is pending (R41, R139). -/
def writeClashes (s : State) (r : Reg) : Bool :=
  isMidway s r.timer || (usesTemp s.board r.timer r.name && compareWritePending s r.timer)

/-- An agent outside the block writes a register: a fault where it clashes with a command (R41, R49), else the register's
new value, which the block reads like any other (R34). -/
def foreignWrite (r : Reg) (v : Half) (s : State) : Host.Outcome State Fault Refusal :=
  if writeClashes s r then .fault .concurrentAccess
  else .next { s with timers := writeReg s.board s.timers r (v &&& heldBits s.board r) }

/-- One input, with the rest of the inputs already in the state. -/
def takeInput (x : Input) (s : State) : Host.Outcome State Fault Refusal :=
  match x with
  | .command w => exec (decode w) s
  | .start w => beginPlan (planOf s.board (decode w)) s
  | .advance t => .next (advanceCommand t s)
  | .foreignWrite r v => foreignWrite r v s
  | .tempUse t => tempUse t s

/-- The next input is taken, in the order the callers give them (R31). With none waiting the block waits for its next
command and nothing changes (R130). -/
def nextStep (s : State) : Host.Outcome State Fault Refusal :=
  match s.inputs with
  | [] => .next s
  | x :: rest => takeInput x { s with inputs := rest }

/-- `s` with a command word as the next input: a caller issues it (R31). -/
def issue (w : Word) (s : State) : State := { s with inputs := .command w :: s.inputs }

end Sys2Proof.Machine
end

