-- ==== Sys2Proof/Machine/Step.lean ====
section
/-! DEFINITION. One step of the machine, and the next command word set from outside. -/

namespace Sys2Proof.Machine

/-- One step: the next input is taken (R31, R124). -/
def step (s : State) : Host.Outcome State Fault Refusal := nextStep s

/-- `s` with the instruction of the table word issued next. -/
def State.withFetchWord (s : State) (nbits w : Nat) : State := issue (tableWord nbits w) s

end Sys2Proof.Machine
end

