-- ==== Sys2Proof/Machine/Assembler.lean ====
section
/-! DEFINITION. The assembler form of a command (R65), as its parsed operands, and the word it stands for. -/

namespace Sys2Proof.Machine

/-- The code of a WaveformMode name (R56). -/
def modeCode : WaveformMode → BitVec 3
  | .normal => 0
  | .fast => 1
  | .phase => 2
  | .ctc => 3
  | .pfc => 4

/-- The code of an AdvancedModeSetting name (R58). -/
def settingCode : AdvancedModeSetting → BitVec 3
  | .bits8 => 0
  | .bits9 => 1
  | .bits10 => 2
  | .topOcra => 3
  | .topIcr => 4

/-- The code of an OutputType name (R59). -/
def outputCode : OutputType → BitVec 3
  | .disabled => 0
  | .toggle => 1
  | .enabled => 2
  | .inverted => 3

/-- The code of a FrequencyChoice name (R60). -/
def freqCode : FrequencyChoice → BitVec 5
  | .f62500 => 1
  | .f15625 => 2
  | .f7812 => 3
  | .f1953 => 4
  | .f976 => 5
  | .f488 => 6
  | .f244 => 7
  | .f61 => 8
  | .f15 => 9

/-- An enumerated operand as R65 writes it: a code name, or `#n`. -/
inductive CodeOperand (α : Type) (w : Nat) where
  | name (x : α)
  | code (n : BitVec w)
deriving DecidableEq, Repr

/-- The field value of an enumerated operand (R65). -/
def operandCode {α : Type} {w : Nat} (codeOf : α → BitVec w) : CodeOperand α w → BitVec w
  | .name x => codeOf x
  | .code n => n

/-- A line of the assembler form (R65); `word` is `.word 0x........`. -/
inductive AsmLine where
  | resolve (pin : Pin)
  | setmode (pin : Pin) (mode : CodeOperand WaveformMode 3)
  | setadv (pin : Pin) (mode : CodeOperand WaveformMode 3) (setting : CodeOperand AdvancedModeSetting 3)
  | setfreq (pin : Pin) (freq : CodeOperand FrequencyChoice 5)
  | setduty (pin : Pin) (percent : BitVec 7)
  | setout (pin : Pin) (otype : CodeOperand OutputType 3)
  | apply (pin : Pin) (mode : CodeOperand WaveformMode 3) (setting : CodeOperand AdvancedModeSetting 3)
      (otype : CodeOperand OutputType 3) (percent : BitVec 7) (freq : CodeOperand FrequencyChoice 5)
  | setphase (pin : Pin)
  | word (w : Word)
deriving DecidableEq, Repr

/-- The word of a line: each operand in its field, the rest zero (R65). -/
def assemble : AsmLine → Word
  | .resolve pin => encode (.resolve pin)
  | .setmode pin m => encode (.setmode pin (operandCode modeCode m))
  | .setadv pin m a => encode (.setadv pin (operandCode modeCode m) (operandCode settingCode a))
  | .setfreq pin f => encode (.setfreq pin (operandCode freqCode f))
  | .setduty pin p => encode (.setduty pin p)
  | .setout pin o => encode (.setout pin (operandCode outputCode o))
  | .apply pin m a o p f =>
      encode (.apply pin (operandCode modeCode m) (operandCode settingCode a) (operandCode outputCode o) p
        (operandCode freqCode f))
  | .setphase pin => packWord 7 pin 0 0 0 0 0
  | .word w => w

end Sys2Proof.Machine
end

