-- ==== Sys2Proof/Machine/DataSpace.lean ====
section
/-! DEFINITION. The timer register space by address: the ATmega328P map of R38, `MemRead` and `MemWrite` of R10, and the
byte order of the 16-bit registers (R39). The machine itself names its registers (R38, R42); this is a view of them. -/

namespace Sys2Proof.Machine

/-- The data-space address of a register, of its low byte where it has two (R38, R39). -/
def regAddr (r : Reg) : Nat :=
  match r.timer, r.name with
  | .t0, .ctrl .a => 0x44
  | .t0, .ctrl .b => 0x45
  | .t0, .ocr .a => 0x47
  | .t0, .ocr .b => 0x48
  | .t1, .ctrl .a => 0x80
  | .t1, .ctrl .b => 0x81
  | .t1, .ocr .a => 0x88
  | .t1, .ocr .b => 0x8A
  | .t2, .ctrl .a => 0xB0
  | .t2, .ctrl .b => 0xB1
  | .t2, .ocr .a => 0xB3
  | .t2, .ocr .b => 0xB4

/-- The bytes a register takes in the map of R38. -/
def regSize (r : Reg) : Nat :=
  match r.timer, r.name with
  | .t1, .ocr _ => 2
  | _, _ => 1

/-- The twelve registers (R15). -/
def allRegs : List Reg :=
  [⟨.t0, .ctrl .a⟩, ⟨.t0, .ctrl .b⟩, ⟨.t0, .ocr .a⟩, ⟨.t0, .ocr .b⟩, ⟨.t1, .ctrl .a⟩, ⟨.t1, .ctrl .b⟩, ⟨.t1, .ocr .a⟩,
   ⟨.t1, .ocr .b⟩, ⟨.t2, .ctrl .a⟩, ⟨.t2, .ctrl .b⟩, ⟨.t2, .ocr .a⟩, ⟨.t2, .ocr .b⟩]

/-- The register an access of `n` bytes at an address names; no access is narrower or wider than its register (R40,
R42). -/
def regAt (addr n : Nat) : Option Reg := allRegs.find? fun r => regAddr r == addr && regSize r == n

/-- `MemRead(addr, n)` (R10); none where no register of the block stands there (R37, R38). -/
def memRead (ts : Timers) (addr n : Nat) : Option Half := (regAt addr n).map (readReg ts)

/-- `MemWrite(addr, n, v)` (R10). -/
def memWrite (b : BoardProfile) (ts : Timers) (addr n : Nat) (v : Half) : Option Timers :=
  (regAt addr n).map fun r => writeReg b ts r v

/-- One byte of the register space: of a 16-bit register the low byte stands at the lower address (R39). -/
def byteAt (ts : Timers) (addr : Nat) : Option Byte :=
  match allRegs.find? fun r => regAddr r ≤ addr && decide (addr < regAddr r + regSize r) with
  | none => none
  | some r => some ((readReg ts r).extractLsb' (8 * (addr - regAddr r)) 8)

end Sys2Proof.Machine
end

