-- ==== Sys2Proof/Machine/FieldMeaning.lean ====
section
/-! DEFINITION. What the timer hardware makes of each field value: R25 to R28, R107, and the nominal frequencies of R93.
Every value is the ATmega328P's. No rule of the block depends on these: no meaning calls them. -/

namespace Sys2Proof.Machine

/-- A counting pattern of the timer hardware (R25, R26). -/
inductive CountMode where
  | normal | phaseCorrect | ctc | fastPwm | phaseFreqCorrect
deriving DecidableEq, Repr

/-- Where a counting pattern takes TOP from (R25, R26). -/
inductive TopSource where
  | fixed (n : Nat)
  | ocrA
  | icr
deriving DecidableEq, Repr

/-- The mode a WGM value selects; none where it is reserved (R25, R26). -/
def wgmMeaning (t : Timer) (w : BitVec 4) : Option (CountMode × TopSource) :=
  match t with
  | .t1 =>
    match w.toNat with
    | 0 => some (.normal, .fixed 0xFFFF)
    | 1 => some (.phaseCorrect, .fixed 0x00FF)
    | 2 => some (.phaseCorrect, .fixed 0x01FF)
    | 3 => some (.phaseCorrect, .fixed 0x03FF)
    | 4 => some (.ctc, .ocrA)
    | 5 => some (.fastPwm, .fixed 0x00FF)
    | 6 => some (.fastPwm, .fixed 0x01FF)
    | 7 => some (.fastPwm, .fixed 0x03FF)
    | 8 => some (.phaseFreqCorrect, .icr)
    | 9 => some (.phaseFreqCorrect, .ocrA)
    | 10 => some (.phaseCorrect, .icr)
    | 11 => some (.phaseCorrect, .ocrA)
    | 12 => some (.ctc, .icr)
    | 14 => some (.fastPwm, .icr)
    | 15 => some (.fastPwm, .ocrA)
    | _ => none
  | _ =>
    match w.toNat with
    | 0 => some (.normal, .fixed 0xFF)
    | 1 => some (.phaseCorrect, .fixed 0xFF)
    | 2 => some (.ctc, .ocrA)
    | 3 => some (.fastPwm, .fixed 0xFF)
    | 5 => some (.phaseCorrect, .ocrA)
    | 7 => some (.fastPwm, .ocrA)
    | _ => none

/-- The counting pattern a WaveformMode names (R56, R76, R77). -/
def countModeOf : WaveformMode → CountMode
  | .normal => .normal
  | .fast => .fastPwm
  | .phase => .phaseCorrect
  | .ctc => .ctc
  | .pfc => .phaseFreqCorrect

/-- The TOP an AdvancedModeSetting names (R58). -/
def topOf : AdvancedModeSetting → TopSource
  | .bits8 => .fixed 0x00FF
  | .bits9 => .fixed 0x01FF
  | .bits10 => .fixed 0x03FF
  | .topOcra => .ocrA
  | .topIcr => .icr

/-- The clock of a timer (R27). -/
inductive ClockSource where
  | stopped
  | divided (n : Nat)
  | externalFalling
  | externalRising
deriving DecidableEq, Repr

/-- The clock a CS value selects (R27). -/
def csMeaning (t : Timer) (c : BitVec 3) : ClockSource :=
  match t with
  | .t2 =>
    match c.toNat with
    | 0 => .stopped
    | 1 => .divided 1
    | 2 => .divided 8
    | 3 => .divided 32
    | 4 => .divided 64
    | 5 => .divided 128
    | 6 => .divided 256
    | _ => .divided 1024
  | _ =>
    match c.toNat with
    | 0 => .stopped
    | 1 => .divided 1
    | 2 => .divided 8
    | 3 => .divided 64
    | 4 => .divided 256
    | 5 => .divided 1024
    | 6 => .externalFalling
    | _ => .externalRising

/-- What a compare match does to the pin (R28, R107). -/
inductive PinAction where
  | disconnected | toggle | clear | set
deriving DecidableEq, Repr

/-- A mode is one of the PWM modes (R107). -/
def isPwm : CountMode → Bool
  | .normal => false
  | .ctc => false
  | _ => true

/-- What COM = 0b01 does in a PWM mode of the timer: none where it is reserved (R107). -/
def toggleInPwm (t : Timer) (ch : Channel) (w : BitVec 4) : Option PinAction :=
  match t, ch with
  | .t1, .a => if [9, 11, 14, 15].contains w.toNat then some .toggle else some .disconnected
  | .t1, .b => some .disconnected
  | _, .a => if w.getLsbD 2 then some .toggle else some .disconnected
  | _, .b => none

/-- What a channel does on compare match under a WGM and a COM value; none where either is reserved (R28, R107). -/
def pinAction (t : Timer) (ch : Channel) (w : BitVec 4) (com : BitVec 2) : Option PinAction :=
  match wgmMeaning t w, com.toNat with
  | none, _ => none
  | some _, 0 => some .disconnected
  | some (m, _), 1 => if isPwm m then toggleInPwm t ch w else some .toggle
  | some _, 2 => some .clear
  | some _, _ => some .set

/-- The reference period `P` of a timer (R93). -/
def referencePeriod : Timer → Nat
  | .t1 => 1024
  | _ => 256

/-- The nominal frequency of a supported choice in hertz, rounded down: `fclk / (N * P)` (R60, R93). -/
def nominalHz (b : BoardProfile) (t : Timer) (f : FrequencyChoice) : Option Nat :=
  ((b.freqTable.get t).get f).bind fun c =>
    match csMeaning t c with
    | .divided n => some (b.fclk / (n * referencePeriod t))
    | _ => none

/-- The number in a choice's name (R60). -/
def choiceHz : FrequencyChoice → Nat
  | .f62500 => 62500
  | .f15625 => 15625
  | .f7812 => 7812
  | .f1953 => 1953
  | .f976 => 976
  | .f488 => 488
  | .f244 => 244
  | .f61 => 61
  | .f15 => 15

end Sys2Proof.Machine
end

