-- ==== Sys2Proof/Safety.lean ====
section
/-! DEFINITION. What counts as a good run (R130), and the invariants of the state that the statements use: compare values
within their timer's width (R16), a result word of R53's form, commands in progress with something left to do, and the
bits the block never sets (R24). -/

namespace Sys2Proof.Machine

/-- Every compare register is at most `max(t)` (R16, R23). -/
abbrev TimersFit (b : BoardProfile) (ts : Timers) : Prop :=
  ∀ t ∈ [Timer.t0, .t1, .t2], ∀ ch ∈ [Channel.a, .b], (ocrField ts t ch).toNat ≤ maxCount b t

/-- A word of the form R53 gives RESULT: a status of 0 to 5, an owner only with status OK and no stage, no timer 3, a
stage of at most 4 only with an error status, and every other bit 0. -/
abbrev ResultLegal (w : Word) : Prop :=
  w.extractLsb' 0 3 ≤ 5#3 ∧ w.extractLsb' 3 5 = 0 ∧ w.extractLsb' 15 17 = 0
    ∧ (w.extractLsb' 11 1 = 0#1 → w.extractLsb' 8 3 = 0)
    ∧ (w.extractLsb' 11 1 = 1#1 → w.extractLsb' 8 2 ≠ 3#2 ∧ w.extractLsb' 0 3 = 0 ∧ w.extractLsb' 12 3 = 0)
    ∧ w.extractLsb' 12 3 ≤ 4#3 ∧ (w.extractLsb' 12 3 ≠ 0 → w.extractLsb' 0 3 ≠ 0)

/-- The bits of a control register that hold WGM, CS or COM: the only ones the block ever sets (R17 to R19, R24). -/
def ownedBits (t : Timer) (c : CtrlName) : Byte :=
  match c, t with
  | .a, _ => 0b11110011
  | .b, .t1 => 0b00011111
  | .b, _ => 0b00001111

/-- The bits of a control register that the block does not own (R24). -/
def unownedPart (ts : Timers) (t : Timer) (c : CtrlName) : Half :=
  readReg ts ⟨t, .ctrl c⟩ &&& ~~~((ownedBits t c).setWidth 16)

/-- The bits that read as zero on the ATmega328P are zero: CTRL_A[3:2], T0 and T2's CTRL_B[7:4], T1's CTRL_B[5] (R17 to
R19, R24). -/
abbrev ReservedZero (b : BoardProfile) (ts : Timers) : Prop :=
  ∀ t ∈ [Timer.t0, .t1, .t2], ∀ c ∈ [CtrlName.a, .b],
    readReg ts ⟨t, .ctrl c⟩ &&& ~~~(heldBits b ⟨t, .ctrl c⟩) = 0

/-- An access a plan on timer `t` may hold: an RMW within the owned bits of one of its control registers, or a compare
write of its own that fits (R24, R47). -/
def planAccessOk (b : BoardProfile) (t : Timer) : Access → Bool
  | .gpio _ => false
  | .rmw u c clearMask setMask =>
      u == t && clearMask &&& ~~~(ownedBits t c) == 0 && setMask &&& ~~~(ownedBits t c) == 0
  | .write r v =>
      r.timer == t && match r.name with | .ocr _ => decide (v.toNat ≤ maxCount b t) | .ctrl _ => false

/-- What a command in progress on `t` may have before it: at least one access; a GPIO request only first and before any
register access (R111); the write that ends an RMW only next, and keeping the bits the block does not own (R24). -/
def restOk (b : BoardProfile) (ts : Timers) (t : Timer) (touched : Bool) : List Access → Bool
  | [] => false
  | .gpio _ :: as => !touched && as.all (planAccessOk b t)
  | .write ⟨u, .ctrl c⟩ v :: as =>
      touched && u == t && v.toNat < 256 && v &&& ~~~((ownedBits t c).setWidth 16) == unownedPart ts t c
        && as.all (planAccessOk b t)
  | a :: as => (a :: as).all (planAccessOk b t)

/-- A command in progress on `t`, where there is one, is one the block can have begun there (R47, R49). -/
def inFlightOk (s : State) (t : Timer) : Bool :=
  match s.inFlight.get t with
  | none => true
  | some f => restOk s.board s.timers t f.touched f.rest && decide (ResultLegal (resultWord f.answer))

/-- The invariant of the machine. -/
abbrev Inv (s : State) : Prop :=
  TimersFit s.board s.timers ∧ ResultLegal s.result ∧ inFlightOk s .t0 ∧ inFlightOk s .t1 ∧ inFlightOk s .t2

/-- The run is over: no input waits and no command is in progress (R130). -/
abbrev RunEnded (s : State) : Prop := s.inputs = [] ∧ s.inFlight = ⟨none, none, none⟩

/-- A good run from `s`: it ends, no command faulted and no refusal was recorded (R130). -/
def GoodRun (s : State) : Prop :=
  ∃ k t, Host.Core.run Sys2Proof.core k s = .next t ∧ RunEnded t ∧ t.refusalMark = false

/-- No register of a timer but `t` changes. -/
abbrev SameTimersBut (t : Timer) (ts us : Timers) : Prop := ∀ u, u ≠ t → us.get u = ts.get u

/-- Of the whole register space only `WGM(t)` may change: not the other timers, CS, COM, a compare register or a bit the
block does not own (R24, R78). -/
abbrev KeepsAllButWgm (t : Timer) (ts us : Timers) : Prop :=
  SameTimersBut t ts us ∧ csField us t = csField ts t ∧ (∀ ch, comField us t ch = comField ts t ch)
    ∧ (∀ ch, ocrField us t ch = ocrField ts t ch) ∧ ∀ c, unownedPart us t c = unownedPart ts t c

/-- Of the whole register space only `CS(t)` may change (R87). -/
abbrev KeepsAllButCs (t : Timer) (ts us : Timers) : Prop :=
  SameTimersBut t ts us ∧ wgmField us t = wgmField ts t ∧ (∀ ch, comField us t ch = comField ts t ch)
    ∧ (∀ ch, ocrField us t ch = ocrField ts t ch) ∧ ∀ c, unownedPart us t c = unownedPart ts t c

/-- Of the whole register space only `COM(t, ch)` may change (R106). -/
abbrev KeepsAllButCom (t : Timer) (ch : Channel) (ts us : Timers) : Prop :=
  SameTimersBut t ts us ∧ wgmField us t = wgmField ts t ∧ csField us t = csField ts t
    ∧ (∀ k, k ≠ ch → comField us t k = comField ts t k)
    ∧ (∀ k, ocrField us t k = ocrField ts t k) ∧ ∀ c, unownedPart us t c = unownedPart ts t c

/-- Of the whole register space only `OCR(t, ch)` may change (R98). -/
abbrev KeepsAllButOcr (t : Timer) (ch : Channel) (ts us : Timers) : Prop :=
  SameTimersBut t ts us ∧ wgmField us t = wgmField ts t ∧ csField us t = csField ts t
    ∧ (∀ k, comField us t k = comField ts t k)
    ∧ (∀ k, k ≠ ch → ocrField us t k = ocrField ts t k) ∧ ∀ c, unownedPart us t c = unownedPart ts t c

/-- The pin of a command that acts on the pin's timer. RESOLVE reads the pin table alone and is on no timer (R70). -/
def timerPin : Instr → Option Pin
  | .resolve _ => none
  | .setmode pin _ => some pin
  | .setadv pin _ _ => some pin
  | .setfreq pin _ => some pin
  | .setduty pin _ => some pin
  | .setout pin _ => some pin
  | .apply pin _ _ _ _ _ => some pin
  | .setphase _ => none
  | .reserved _ => none

/-- An event is a GPIO request (R29). -/
def isRequest : Event → Bool
  | .gpioOut _ => true
  | .wrote _ _ => false

/-- The control registers as the traces of R74 to R103 name them. -/
abbrev regA (t : Timer) : Reg := ⟨t, .ctrl .a⟩

/-- CTRL_B of a timer. -/
abbrev regB (t : Timer) : Reg := ⟨t, .ctrl .b⟩

end Sys2Proof.Machine
end

