-- ==== Sys2Proof/Certificates/Slice0/Obligations.lean ====
section
/-! DEFINITION. The statements for the provers. They hold for every board profile unless a profile is named, and a
statement about one command says the whole next state: the fields it does not name are those of `s`. -/

open Sys2Proof Sys2Proof.Machine

/-! ## Encoding -/

/-- Every well-formed command is what the decoder reads from its word (R51, R55, R64). -/
def Obligations.DecodeOfEncodeIsTheCommand : Prop :=
  ∀ i : Instr, i.wellFormed = true → decode (encode i) = i

/-- Every word decodes to a well-formed command, and that command's word is the word: no bit is dropped. R64 gives the
operands of the rows from RESOLVE to APPLY; that SETPHASE keeps the 28 bits it ignores and RESERVED its whole word is the
model's reading (log entry 20). -/
def Obligations.EncodeOfDecodeIsTheWord : Prop :=
  ∀ w : Word, (decode w).wellFormed = true ∧ encode (decode w) = w

/-- A word that a row of R55 selects decodes to that row's command, and a word no row selects to RESERVED (R55, R63). -/
def Obligations.DecodeFollowsTheOpcodeTable : Prop :=
  ∀ w : Word, (∀ r ∈ opcodeRows, r.selects w = true → (decode w).mnemonic = r.mnemonic)
    ∧ ((∀ r ∈ opcodeRows, r.selects w = false) → decode w = .reserved w)

/-- Words written out from R51 to R60 decode to the commands they stand for, one for each row. -/
def Obligations.WordsWrittenOutDecode : Prop :=
  decode 0b0000_0001001_00000_0000000_000_000_000#32 = .resolve 9#7
    ∧ decode 0b0001_0000110_00000_0000000_000_000_011#32 = .setmode 6#7 3#3
    ∧ decode 0b0010_0001001_00000_0000000_000_010_001#32 = .setadv 9#7 1#3 2#3
    ∧ decode 0b0011_0000110_00101_0000000_000_000_000#32 = .setfreq 6#7 5#5
    ∧ decode 0b0100_0000110_00000_0011001_000_000_000#32 = .setduty 6#7 25#7
    ∧ decode 0b0101_0000110_00000_0000000_010_000_000#32 = .setout 6#7 2#3
    ∧ decode 0b0110_0000110_00101_0011001_010_000_001#32 = .apply 6#7 1#3 0#3 2#3 25#7 5#5
    ∧ decode 0b0111_0000110_00000_0000000_000_000_000#32 = .setphase 0b0000110_00000_0000000_000_000_000#28
    ∧ decode 0b1000_0000000_00000_0000000_000_000_000#32 = .reserved 0x80000000#32

/-- Each line of the assembler form decodes to the command it spells, its enumerated operands given by name or by number,
and a raw word to what the word decodes to (R65); the codes of the names are those of R56, R58, R59 and R60, both ways. That
a SETPHASE keeps the pin among its ignored bits is the model's (log entry 20). -/
def Obligations.AssemblerNamesDecodeBack : Prop :=
  (∀ (pin : Pin) (m : CodeOperand WaveformMode 3) (a : CodeOperand AdvancedModeSetting 3) (o : CodeOperand OutputType 3)
      (p : BitVec 7) (f : CodeOperand FrequencyChoice 5) (w : Word),
    decode (assemble (.resolve pin)) = .resolve pin
      ∧ decode (assemble (.setmode pin m)) = .setmode pin (operandCode modeCode m)
      ∧ decode (assemble (.setadv pin m a)) = .setadv pin (operandCode modeCode m) (operandCode settingCode a)
      ∧ decode (assemble (.setfreq pin f)) = .setfreq pin (operandCode freqCode f)
      ∧ decode (assemble (.setduty pin p)) = .setduty pin p
      ∧ decode (assemble (.setout pin o)) = .setout pin (operandCode outputCode o)
      ∧ decode (assemble (.apply pin m a o p f)) = .apply pin (operandCode modeCode m) (operandCode settingCode a)
          (operandCode outputCode o) p (operandCode freqCode f)
      ∧ decode (assemble (.setphase pin)) = .setphase (pin ++ 0#21) ∧ assemble (.word w) = w)
    ∧ (∀ (m : WaveformMode) (a : AdvancedModeSetting) (o : OutputType) (f : FrequencyChoice) (n : BitVec 3) (k : BitVec 5),
      operandCode modeCode (.name m) = modeCode m ∧ operandCode modeCode (.code n) = n
        ∧ operandCode settingCode (.name a) = settingCode a ∧ operandCode settingCode (.code n) = n
        ∧ operandCode outputCode (.name o) = outputCode o ∧ operandCode outputCode (.code n) = n
        ∧ operandCode freqCode (.name f) = freqCode f ∧ operandCode freqCode (.code k) = k)
    ∧ [WaveformMode.normal, .fast, .phase, .ctc, .pfc].map modeCode = [0, 1, 2, 3, 4]
    ∧ [AdvancedModeSetting.bits8, .bits9, .bits10, .topOcra, .topIcr].map settingCode = [0, 1, 2, 3, 4]
    ∧ [OutputType.disabled, .toggle, .enabled, .inverted].map outputCode = [0, 1, 2, 3]
    ∧ [FrequencyChoice.f62500, .f15625, .f7812, .f1953, .f976, .f488, .f244, .f61, .f15].map freqCode
        = [1, 2, 3, 4, 5, 6, 7, 8, 9]
    ∧ [0, 1, 2, 3, 4, 5, 6, 7].map modeOfCode
        = [some .normal, some .fast, some .phase, some .ctc, some .pfc, none, none, none]
    ∧ [0, 1, 2, 3, 4, 5, 6, 7].map settingOfCode
        = [some .bits8, some .bits9, some .bits10, some .topOcra, some .topIcr, none, none, none]
    ∧ [0, 1, 2, 3, 4, 5, 6, 7].map outputOfCode
        = [some .disabled, some .toggle, some .enabled, some .inverted, none, none, none, none]
    ∧ [0, 1, 2, 3, 4, 5, 6, 7, 8, 9].map freqOfCode
        = [none, some .f62500, some .f15625, some .f7812, some .f1953, some .f976, some .f488, some .f244, some .f61,
          some .f15]
    ∧ ∀ k : BitVec 5, 10 ≤ k.toNat → freqOfCode k = none

/-! ## A step -/

/-- When the next input is the word of a well-formed command, a step is that command's exec on the state with the word
taken (R31, R64). -/
def Obligations.StepRunsTheIssuedCommand : Prop :=
  (∀ (s : State) (w : Word) (rest : List Input), s.inputs = .command w :: rest →
      (decode w).wellFormed = true ∧ step s = exec (decode w) { s with inputs := rest })
    ∧ ∀ (s : State) (i : Instr), i.wellFormed = true → step (issue (encode i) s) = exec i s

/-- With no input waiting a step changes nothing: the model's choice for the time after a run's end (log entry 4). -/
def Obligations.IdleStepChangesNothing : Prop :=
  ∀ s : State, s.inputs = [] → step s = .next s

/-! ## RESOLVE and the pin check -/

/-- RESOLVE answers with the pin's timer and channel in RESULT, or InvalidPin; it makes no access (R70). That it does so
also where the pin's timer has a command in progress is the model's choice (log entry 6). -/
def Obligations.ResolveAnswersTheOwner : Prop :=
  ∀ (s : State) (pin : Pin),
    (∀ t ch, resolvePin s.board pin = some (t, ch) →
      exec (.resolve pin) s = .next { s with
        trace := []
        result := BitVec.ofNat 32 (1 * 2 ^ 11 + (match ch with | .a => 0 | .b => 1) * 2 ^ 10
          + (match t with | .t0 => 0 | .t1 => 1 | .t2 => 2) * 2 ^ 8) })
      ∧ (resolvePin s.board pin = none → exec (.resolve pin) s = .next { s with trace := [], result := 1 })

/-- Every command with a pin the profile lacks answers InvalidPin and makes no access and no request, whatever its other
fields (R71). -/
def Obligations.UnknownPinIsInvalidPin : Prop :=
  ∀ (s : State) (pin : Pin) (m a o : BitVec 3) (f : BitVec 5) (p : BitVec 7), resolvePin s.board pin = none →
    ∀ i ∈ [Instr.resolve pin, .setmode pin m, .setadv pin m a, .setfreq pin f, .setduty pin p, .setout pin o,
        .apply pin m a o p f],
      exec i s = .next { s with trace := [], result := 1 }

/-- In a profile whose pin table is as R69 asks, no two pins have one timer and channel; UNO328P's six pins are those of
R68. -/
def Obligations.PinsOwnDistinctChannels : Prop :=
  (∀ (b : BoardProfile) (p q : Pin) (x : Timer × Channel), pinMapWf b.pinMap = true →
      resolvePin b p = some x → resolvePin b q = some x → p = q)
    ∧ profileWf uno328p = true
    ∧ ∀ (p : Pin) (t : Timer) (ch : Channel), resolvePin uno328p p = some (t, ch) ↔
        (p, t, ch) ∈ [(3#7, Timer.t2, Channel.b), (5#7, .t0, .b), (6#7, .t0, .a), (9#7, .t1, .a), (10#7, .t1, .b),
          (11#7, .t2, .a)]

/-- Two pins of one timer give one SETMODE, one SETADV and one SETFREQ: mode and frequency are the timer's (R72). -/
def Obligations.PinsShareTheirTimersModeAndFrequency : Prop :=
  ∀ (s : State) (p q : Pin) (t : Timer) (c d : Channel) (m a : BitVec 3) (f : BitVec 5),
    resolvePin s.board p = some (t, c) → resolvePin s.board q = some (t, d) →
      exec (.setmode p m) s = exec (.setmode q m) s ∧ exec (.setadv p m a) s = exec (.setadv q m a) s
        ∧ exec (.setfreq p f) s = exec (.setfreq q f) s

/-! ## SETMODE and SETADV -/

/-- SETMODE with a mode the timer's table has writes CTRL_A and then CTRL_B, WGM becomes the table's pattern, and every
other field keeps its value (R73, R74, R78). -/
def Obligations.SetmodeWritesTheModePattern : Prop :=
  ∀ (s : State) (pin : Pin) (mode : BitVec 3) (t : Timer) (ch : Channel) (m : WaveformMode) (w : BitVec 4),
    resolvePin s.board pin = some (t, ch) → isBusy s t = false → s.board.modeImpl.get t = true →
    modeOfCode mode = some m → (s.board.modeTable.get t).get m = some w →
    ∃ us, exec (.setmode pin mode) s = .next { s with
          timers := us, result := 0
          trace := [.wrote (regA t) (readReg us (regA t)), .wrote (regB t) (readReg us (regB t))] }
        ∧ wgmField us t = w &&& wgmMask t ∧ KeepsAllButWgm t s.timers us

/-- SETMODE with a named mode the timer's table lacks clears WGM and answers OK, with the same two writes; under UNO328P
this is PFC on T0 and T2 and nothing else (R75). -/
def Obligations.SetmodeSafeDefaultClearsTheMode : Prop :=
  (∀ (s : State) (pin : Pin) (mode : BitVec 3) (t : Timer) (ch : Channel) (m : WaveformMode),
    resolvePin s.board pin = some (t, ch) → isBusy s t = false → s.board.modeImpl.get t = true →
    modeOfCode mode = some m → (s.board.modeTable.get t).get m = none →
    ∃ us, exec (.setmode pin mode) s = .next { s with
          timers := us, result := 0
          trace := [.wrote (regA t) (readReg us (regA t)), .wrote (regB t) (readReg us (regB t))] }
        ∧ wgmField us t = 0 ∧ KeepsAllButWgm t s.timers us)
    ∧ ∀ (t : Timer) (m : WaveformMode), (uno328p.modeTable.get t).get m = none ↔ (m = .pfc ∧ t ≠ .t1)

/-- A mode or setting code above 4 answers UndefinedValue with no access (R57, R74, R79). -/
def Obligations.ModeCodesOutOfRangeAreUndefinedValue : Prop :=
  ∀ (s : State) (pin : Pin) (mode setting : BitVec 3) (t : Timer) (ch : Channel),
    resolvePin s.board pin = some (t, ch) → isBusy s t = false → s.board.modeImpl.get t = true →
      (4 < mode.toNat → exec (.setmode pin mode) s = .next { s with trace := [], result := 4 })
        ∧ (4 < mode.toNat ∨ 4 < setting.toNat →
            exec (.setadv pin mode setting) s = .next { s with trace := [], result := 4 })

/-- Where the profile does not implement the timer's mode tables, SETMODE, SETADV and APPLY answer Unsupported after the
pin check and before any access, whatever their other fields, and record a refusal; UNO328P implements every timer's
(R86). -/
def Obligations.UnimplementedModeTablesAreUnsupported : Prop :=
  (∀ (s : State) (pin : Pin) (m a o : BitVec 3) (f : BitVec 5) (p : BitVec 7),
    ∀ i ∈ [Instr.setmode pin m, .setadv pin m a, .apply pin m a o p f],
      (resolvePin s.board pin = none → exec i s = .next { s with trace := [], result := 1 })
        ∧ ∀ t ch, resolvePin s.board pin = some (t, ch) → isBusy s t = false → s.board.modeImpl.get t = false →
          exec i s = .next { s with trace := [], result := 5, refusalMark := true })
    ∧ ∀ t, uno328p.modeImpl.get t = true

/-- SETADV whose table has a refinement `r`: the writes of SETMODE, then CTRL_A if `r` differs from the base pattern in
the low WGM bits, then CTRL_B if it differs in the high ones; WGM ends as `r`, whatever it was, and every other field keeps
its value (R79). -/
def Obligations.SetadvEndsInTheRefinement : Prop :=
  ∀ (s : State) (pin : Pin) (mode setting : BitVec 3) (t : Timer) (ch : Channel) (m : WaveformMode)
    (a : AdvancedModeSetting) (r : BitVec 4),
    resolvePin s.board pin = some (t, ch) → isBusy s t = false → s.board.modeImpl.get t = true →
    modeOfCode mode = some m → settingOfCode setting = some a → refinement s.board t m a = some r →
    ∃ s1 us, exec (.setmode pin mode) s = .next s1
      ∧ exec (.setadv pin mode setting) s = .next { s with
          timers := us, result := 0
          trace := s1.trace
            ++ (if (r ^^^ basePattern s.board t m) &&& 0b0011 = 0 then [] else [.wrote (regA t) (readReg us (regA t))])
            ++ (if (r ^^^ basePattern s.board t m) &&& wgmMask t &&& 0b1100 = 0 then []
                else [.wrote (regB t) (readReg us (regB t))]) }
      ∧ wgmField us t = r &&& wgmMask t ∧ KeepsAllButWgm t s.timers us

/-- A setting that does not apply makes no access: SETADV then ends exactly as SETMODE does, with status OK (R81). -/
def Obligations.SetadvWithoutRefinementIsSetmode : Prop :=
  ∀ (s : State) (pin : Pin) (mode setting : BitVec 3) (t : Timer) (ch : Channel) (m : WaveformMode)
    (a : AdvancedModeSetting),
    resolvePin s.board pin = some (t, ch) → isBusy s t = false → s.board.modeImpl.get t = true →
    modeOfCode mode = some m → settingOfCode setting = some a → refinement s.board t m a = none →
    ∃ s1, exec (.setmode pin mode) s = .next s1 ∧ exec (.setadv pin mode setting) s = .next s1 ∧ s1.result = 0
      ∧ wgmField s1.timers t = basePattern s.board t m &&& wgmMask t

/-- The composition law: the registers after SETADV are those after SETMODE with `WGM(t) <- r` written on them where the
table has the refinement `r`, and those after SETMODE where it has none (R80). -/
def Obligations.SetadvIsSetmodeThenOverlay : Prop :=
  ∀ (s : State) (pin : Pin) (mode setting : BitVec 3) (t : Timer) (ch : Channel) (m : WaveformMode)
    (a : AdvancedModeSetting),
    resolvePin s.board pin = some (t, ch) → isBusy s t = false → s.board.modeImpl.get t = true →
    modeOfCode mode = some m → settingOfCode setting = some a →
    ∃ s1 s2, exec (.setmode pin mode) s = .next s1 ∧ exec (.setadv pin mode setting) s = .next s2
      ∧ s2.timers = (match refinement s.board t m a with
          | none => s1.timers
          | some r => writeWgm s.board s1.timers t r)

/-- The table of R84, row by row: of each UNO328P refinement the base pattern, the result, and the RMWs that SETADV adds;
every other combination has no refinement. -/
def Obligations.UnoOverlayWritesAreThoseOfTheTable : Prop :=
  (∀ t ∈ [Timer.t0, .t2], ∀ x ∈ [(WaveformMode.fast, AdvancedModeSetting.topOcra, 0b011, 0b111, [.rmw t .b 0 0b00001000]),
        (WaveformMode.phase, AdvancedModeSetting.topOcra, 0b001, 0b101, [.rmw t .b 0 0b00001000]),
        (WaveformMode.ctc, AdvancedModeSetting.topOcra, 0b010, 0b010, [])],
      basePattern uno328p t x.1 = x.2.2.1 ∧ refinement uno328p t x.1 x.2.1 = some x.2.2.2.1
        ∧ overlayAccesses t x.2.2.1 x.2.2.2.1 = x.2.2.2.2)
    ∧ (∀ x ∈ [(WaveformMode.fast, AdvancedModeSetting.bits8, 0b0101, 0b0101, []),
        (WaveformMode.fast, AdvancedModeSetting.bits9, 0b0101, 0b0110, [.rmw .t1 .a 0b01 0b10]),
        (WaveformMode.fast, AdvancedModeSetting.bits10, 0b0101, 0b0111, [.rmw .t1 .a 0 0b10]),
        (WaveformMode.fast, AdvancedModeSetting.topOcra, 0b0101, 0b1111, [.rmw .t1 .a 0 0b10, .rmw .t1 .b 0 0b00010000]),
        (WaveformMode.fast, AdvancedModeSetting.topIcr, 0b0101, 0b1110, [.rmw .t1 .a 0b01 0b10, .rmw .t1 .b 0 0b00010000]),
        (WaveformMode.phase, AdvancedModeSetting.bits8, 0b0001, 0b0001, []),
        (WaveformMode.phase, AdvancedModeSetting.bits9, 0b0001, 0b0010, [.rmw .t1 .a 0b01 0b10]),
        (WaveformMode.phase, AdvancedModeSetting.bits10, 0b0001, 0b0011, [.rmw .t1 .a 0 0b10]),
        (WaveformMode.phase, AdvancedModeSetting.topOcra, 0b0001, 0b1011, [.rmw .t1 .a 0 0b10, .rmw .t1 .b 0 0b00010000]),
        (WaveformMode.phase, AdvancedModeSetting.topIcr, 0b0001, 0b1010, [.rmw .t1 .a 0b01 0b10, .rmw .t1 .b 0 0b00010000]),
        (WaveformMode.ctc, AdvancedModeSetting.topOcra, 0b0100, 0b0100, []),
        (WaveformMode.ctc, AdvancedModeSetting.topIcr, 0b0100, 0b1100, [.rmw .t1 .b 0 0b00010000]),
        (WaveformMode.pfc, AdvancedModeSetting.topOcra, 0b1000, 0b1001, [.rmw .t1 .a 0 0b01]),
        (WaveformMode.pfc, AdvancedModeSetting.topIcr, 0b1000, 0b1000, [])],
      basePattern uno328p .t1 x.1 = x.2.2.1 ∧ refinement uno328p .t1 x.1 x.2.1 = some x.2.2.2.1
        ∧ overlayAccesses .t1 x.2.2.1 x.2.2.2.1 = x.2.2.2.2)
    ∧ ∀ (t : Timer) (m : WaveformMode) (a : AdvancedModeSetting), refinement uno328p t m a ≠ none ↔
        (m, a) ∈ (if t = .t1 then [(.fast, .bits8), (.fast, .bits9), (.fast, .bits10), (.fast, .topOcra), (.fast, .topIcr),
            (.phase, .bits8), (.phase, .bits9), (.phase, .bits10), (.phase, .topOcra), (.phase, .topIcr),
            (.ctc, .topOcra), (.ctc, .topIcr), (.pfc, .topOcra), (.pfc, .topIcr)]
          else [(.fast, .topOcra), (.phase, .topOcra), (.ctc, .topOcra)])

/-! ## SETFREQ -/

/-- SETFREQ with a choice the timer supports clears CS and then writes the choice's pattern: two writes of CTRL_B, the
first with CS = 0, and no other field changes (R87, R88). -/
def Obligations.SetfreqSelectsTheClock : Prop :=
  ∀ (s : State) (pin : Pin) (freq : BitVec 5) (t : Timer) (ch : Channel) (c : BitVec 3),
    resolvePin s.board pin = some (t, ch) → isBusy s t = false → s.board.freqImpl.get t = true →
    csPattern s.board t freq = some c →
    ∃ us, exec (.setfreq pin freq) s = .next { s with
          timers := us, result := 0
          trace := [.wrote (regB t) (readReg s.timers (regB t) &&& 0x00F8), .wrote (regB t) (readReg us (regB t))] }
        ∧ csField us t = c ∧ KeepsAllButCs t s.timers us

/-- SETFREQ with a choice the timer lacks clears CS all the same, in one write, and answers InvalidFrequency (R88, R89,
R91). -/
def Obligations.SetfreqClearsTheClockThenRejects : Prop :=
  ∀ (s : State) (pin : Pin) (freq : BitVec 5) (t : Timer) (ch : Channel),
    resolvePin s.board pin = some (t, ch) → isBusy s t = false → s.board.freqImpl.get t = true →
    csPattern s.board t freq = none →
    ∃ us, exec (.setfreq pin freq) s = .next { s with
          timers := us, result := 2, trace := [.wrote (regB t) (readReg us (regB t))] }
        ∧ csField us t = 0 ∧ KeepsAllButCs t s.timers us

/-- The clear comes first whatever the choice, and is a write even where CS is 0 already; on a pin the profile lacks there
is none (R89). -/
def Obligations.SetfreqAlwaysClearsFirst : Prop :=
  ∀ (s : State) (pin : Pin) (freq : BitVec 5),
    (∀ t ch, resolvePin s.board pin = some (t, ch) → isBusy s t = false → s.board.freqImpl.get t = true →
      ∃ s' more, exec (.setfreq pin freq) s = .next s'
        ∧ s'.trace = .wrote (regB t) (readReg s.timers (regB t) &&& 0x00F8) :: more
        ∧ (s'.result = 2 → more = [] ∧ csField s'.timers t = 0))
      ∧ (resolvePin s.board pin = none → exec (.setfreq pin freq) s = .next { s with trace := [], result := 1 })

/-- A code is accepted exactly where it names a choice that the pin's own timer has; codes 0 and 10 to 31 never are, and
every code not accepted is InvalidFrequency with CS cleared (R91). -/
def Obligations.SetfreqAcceptsExactlyTheTimersChoices : Prop :=
  ∀ (s : State) (pin : Pin) (freq : BitVec 5) (t : Timer) (ch : Channel),
    resolvePin s.board pin = some (t, ch) → isBusy s t = false → s.board.freqImpl.get t = true →
    ∃ s', exec (.setfreq pin freq) s = .next s'
      ∧ (s'.result = 0 ↔ ∃ f, freqOfCode freq = some f ∧ (s.board.freqTable.get t).get f ≠ none)
      ∧ (s'.result ≠ 0 → s'.result = 2 ∧ csField s'.timers t = 0) ∧ (freq = 0 ∨ 10 ≤ freq.toNat → s'.result = 2)

/-- Where the profile does not implement the timer's frequency table, SETFREQ and APPLY answer Unsupported after the pin
check and before any access, so CS is not cleared, and record a refusal; UNO328P implements every timer's (R94). -/
def Obligations.UnimplementedFrequencyTableIsUnsupported : Prop :=
  (∀ (s : State) (pin : Pin) (m a o : BitVec 3) (f : BitVec 5) (p : BitVec 7),
    ∀ i ∈ [Instr.setfreq pin f, .apply pin m a o p f],
      (resolvePin s.board pin = none → exec i s = .next { s with trace := [], result := 1 })
        ∧ ∀ t ch, resolvePin s.board pin = some (t, ch) → isBusy s t = false → s.board.freqImpl.get t = false →
          exec i s = .next { s with trace := [], result := 5, refusalMark := true })
    ∧ ∀ t, uno328p.freqImpl.get t = true

/-- The overwrite law: after any first SETFREQ, accepted or not, a second with a supported choice leaves the registers as
the second alone would (R92). -/
def Obligations.SetfreqOverwritesEarlierChoices : Prop :=
  ∀ (s : State) (pin : Pin) (f1 f2 : BitVec 5) (t : Timer) (ch : Channel) (c : BitVec 3),
    resolvePin s.board pin = some (t, ch) → isBusy s t = false → s.board.freqImpl.get t = true →
    csPattern s.board t f2 = some c →
    ∃ s1 s12 s2, exec (.setfreq pin f1) s = .next s1 ∧ exec (.setfreq pin f2) s1 = .next s12
      ∧ exec (.setfreq pin f2) s = .next s2 ∧ s12.timers = s2.timers

/-! ## SETDUTY -/

/-- SETDUTY with a percentage up to 100 writes floor(p * max(t) / 100) to the compare register of the pin's own channel,
in one write, and no other field changes (R95, R96, R98). -/
def Obligations.SetdutyWritesTheScaledValue : Prop :=
  ∀ (s : State) (pin : Pin) (p : BitVec 7) (t : Timer) (ch : Channel),
    resolvePin s.board pin = some (t, ch) → isBusy s t = false → p.toNat ≤ 100 →
    ∃ us v, exec (.setduty pin p) s = .next { s with timers := us, result := 0, trace := [.wrote ⟨t, .ocr ch⟩ v] }
        ∧ v.toNat = p.toNat * (2 ^ (s.board.width.get t).bits - 1) / 100
        ∧ ocrField us t ch = v ∧ KeepsAllButOcr t ch s.timers us

/-- SETDUTY with a percentage above 100 answers InvalidDutyCycleValue and makes no access; on a pin the profile lacks it
answers InvalidPin (R97). -/
def Obligations.SetdutyAboveHundredIsRejected : Prop :=
  ∀ (s : State) (pin : Pin) (p : BitVec 7), 100 < p.toNat →
    (∀ t ch, resolvePin s.board pin = some (t, ch) → isBusy s t = false →
      exec (.setduty pin p) s = .next { s with trace := [], result := 3 })
      ∧ (resolvePin s.board pin = none → exec (.setduty pin p) s = .next { s with trace := [], result := 1 })

/-- The scaling is monotone, 0 at 0, `max(t)` at 100 and never above it (R99), with the values of R101 at 25, 50 and
66. -/
def Obligations.DutyScalingIsMonotoneAndBounded : Prop :=
  (∀ (b : BoardProfile) (t : Timer) (p q : Nat), p ≤ q → q ≤ 100 →
      dutyValue b t p ≤ dutyValue b t q ∧ dutyValue b t q ≤ maxCount b t
        ∧ dutyValue b t 0 = 0 ∧ dutyValue b t 100 = maxCount b t)
    ∧ (maxCount uno328p .t0, maxCount uno328p .t1, maxCount uno328p .t2) = (255, 65535, 255)
    ∧ [25, 50, 66].map (dutyValue uno328p .t0) = [63, 127, 168]
    ∧ [25, 50, 66].map (dutyValue uno328p .t1) = [16383, 32767, 43253]

/-! ## SETOUT -/

/-- SETOUT with an output type the channel's table has writes CTRL_A once, the channel's COM becomes the table's pattern,
and no other field changes (R102, R103, R106). Under UNO328P every channel has all four types, with the patterns of R104. -/
def Obligations.SetoutConnectsTheChannel : Prop :=
  (∀ (s : State) (pin : Pin) (otype : BitVec 3) (t : Timer) (ch : Channel) (o : OutputType) (c : BitVec 2),
    resolvePin s.board pin = some (t, ch) → isBusy s t = false →
    outputOfCode otype = some o → ((s.board.outTable.get t).get ch).get o = some c →
    ∃ us, exec (.setout pin otype) s = .next { s with
          timers := us, result := 0, trace := [.wrote (regA t) (readReg us (regA t))] }
        ∧ comField us t ch = c ∧ KeepsAllButCom t ch s.timers us)
    ∧ ∀ (t : Timer) (ch : Channel), [OutputType.disabled, .toggle, .enabled, .inverted].map
        ((uno328p.outTable.get t).get ch).get = [some 0b00, some 0b01, some 0b10, some 0b11]

/-- SETOUT with a named output type the channel's table lacks clears the channel's COM and answers OK; a code that names no
output type is not this case, and changes no register (R105). -/
def Obligations.SetoutSafeDefaultDisconnects : Prop :=
  ∀ (s : State) (pin : Pin) (otype : BitVec 3) (t : Timer) (ch : Channel),
    resolvePin s.board pin = some (t, ch) → isBusy s t = false →
    (∀ o, outputOfCode otype = some o → ((s.board.outTable.get t).get ch).get o = none →
      ∃ us, exec (.setout pin otype) s = .next { s with
            timers := us, result := 0, trace := [.wrote (regA t) (readReg us (regA t))] }
          ∧ comField us t ch = 0 ∧ KeepsAllButCom t ch s.timers us)
      ∧ (outputOfCode otype = none → exec (.setout pin otype) s = .next { s with trace := [], result := 4 })

/-- An output code above 3 answers UndefinedValue with no access (R57, R103). -/
def Obligations.OutputCodeOutOfRangeIsUndefinedValue : Prop :=
  ∀ (s : State) (pin : Pin) (otype : BitVec 3) (t : Timer) (ch : Channel),
    resolvePin s.board pin = some (t, ch) → isBusy s t = false → 3 < otype.toNat →
      exec (.setout pin otype) s = .next { s with trace := [], result := 4 }

/-! ## APPLY -/

/-- APPLY with every field accepted: the pin is requested first, WGM, CS, the channel's compare register and COM end as
the four parts set them, and no other field changes (R109). -/
def Obligations.ApplyConfiguresThePin : Prop :=
  ∀ (s : State) (pin : Pin) (mode setting otype : BitVec 3) (p : BitVec 7) (freq : BitVec 5) (t : Timer) (ch : Channel)
    (m : WaveformMode) (a : AdvancedModeSetting) (o : OutputType) (c : BitVec 3),
    resolvePin s.board pin = some (t, ch) → isBusy s t = false →
    s.board.modeImpl.get t = true → s.board.freqImpl.get t = true →
    modeOfCode mode = some m → settingOfCode setting = some a → outputOfCode otype = some o →
    csPattern s.board t freq = some c → p.toNat ≤ 100 →
    ∃ us writes, exec (.apply pin mode setting otype p freq) s
          = .next { s with timers := us, result := 0, trace := .gpioOut pin :: writes }
        ∧ writes.any isRequest = false
        ∧ wgmField us t = (refinement s.board t m a).getD (basePattern s.board t m) &&& wgmMask t
        ∧ csField us t = c ∧ (ocrField us t ch).toNat = p.toNat * (2 ^ (s.board.width.get t).bits - 1) / 100
        ∧ comField us t ch = comPattern s.board t ch o
        ∧ SameTimersBut t s.timers us
        ∧ (∀ k, k ≠ ch → comField us t k = comField s.timers t k ∧ ocrField us t k = ocrField s.timers t k)
        ∧ ∀ d, unownedPart us t d = unownedPart s.timers t d

/-- APPLY with every field accepted does what SETADV, SETFREQ, SETDUTY and SETOUT do one after the other, with the GPIO
request before them: the same registers, and their traces joined in that order (R109, R110). -/
def Obligations.ApplyIsItsFourPartsInTurn : Prop :=
  ∀ (s : State) (pin : Pin) (mode setting otype : BitVec 3) (p : BitVec 7) (freq : BitVec 5) (t : Timer) (ch : Channel),
    resolvePin s.board pin = some (t, ch) → isBusy s t = false →
    s.board.modeImpl.get t = true → s.board.freqImpl.get t = true →
    mode.toNat ≤ 4 → setting.toNat ≤ 4 → otype.toNat ≤ 3 → csPattern s.board t freq ≠ none → p.toNat ≤ 100 →
    ∃ s1 s2 s3 s4, exec (.setadv pin mode setting) s = .next s1 ∧ exec (.setfreq pin freq) s1 = .next s2
      ∧ exec (.setduty pin p) s2 = .next s3 ∧ exec (.setout pin otype) s3 = .next s4
      ∧ exec (.apply pin mode setting otype p freq) s
          = .next { s4 with trace := .gpioOut pin :: (s1.trace ++ s2.trace ++ s3.trace ++ s4.trace) }

/-- APPLY stops at its first failing part, with that part's status and number in RESULT; the request and the writes of the
earlier parts stay, and of the failing part only the clear of CS (R112). -/
def Obligations.ApplyStopsAtTheFirstFailingPart : Prop :=
  ∀ (s : State) (pin : Pin) (mode setting otype : BitVec 3) (p : BitVec 7) (freq : BitVec 5) (t : Timer) (ch : Channel),
    resolvePin s.board pin = some (t, ch) → isBusy s t = false →
    s.board.modeImpl.get t = true → s.board.freqImpl.get t = true →
    (4 < mode.toNat ∨ 4 < setting.toNat →
        exec (.apply pin mode setting otype p freq) s = .next { s with trace := [.gpioOut pin], result := 0x1004 })
      ∧ (mode.toNat ≤ 4 → setting.toNat ≤ 4 → ∃ s1 s2,
        exec (.setadv pin mode setting) s = .next s1 ∧ exec (.setfreq pin freq) s1 = .next s2
          ∧ (csPattern s.board t freq = none →
              exec (.apply pin mode setting otype p freq) s
                = .next { s2 with trace := .gpioOut pin :: (s1.trace ++ s2.trace), result := 0x2002 })
          ∧ (csPattern s.board t freq ≠ none → 100 < p.toNat →
              exec (.apply pin mode setting otype p freq) s
                = .next { s2 with trace := .gpioOut pin :: (s1.trace ++ s2.trace), result := 0x3003 })
          ∧ (csPattern s.board t freq ≠ none → p.toNat ≤ 100 → 3 < otype.toNat → ∃ s3,
              exec (.setduty pin p) s2 = .next s3
                ∧ exec (.apply pin mode setting otype p freq) s
                  = .next { s3 with trace := .gpioOut pin :: (s1.trace ++ s2.trace ++ s3.trace), result := 0x4004 }))

/-- APPLY issues exactly one GPIO request, for its own pin and before any register access, once its pin and both tables are
there, whatever its parts return; before that, and in every other command, there is none (R111). -/
def Obligations.OnlyApplyRequestsItsPin : Prop :=
  ∀ (i : Instr) (s s' : State), exec i s = .next s' →
    (∀ pin mode setting otype p freq t ch, i = .apply pin mode setting otype p freq →
        resolvePin s.board pin = some (t, ch) → s.board.modeImpl.get t = true → s.board.freqImpl.get t = true →
        ∃ writes, s'.trace = .gpioOut pin :: writes ∧ writes.any isRequest = false)
      ∧ (∀ pin mode setting otype p freq t ch, i = .apply pin mode setting otype p freq →
        resolvePin s.board pin = some (t, ch) →
        (s.board.modeImpl.get t = false ∨ s.board.freqImpl.get t = false) → s'.trace = [])
      ∧ (∀ pin mode setting otype p freq, i = .apply pin mode setting otype p freq → resolvePin s.board pin = none →
        s'.trace = [])
      ∧ ((∀ pin mode setting otype p freq, i ≠ .apply pin mode setting otype p freq) →
        s'.trace.any isRequest = false)

/-! ## SETPHASE and the reserved words -/

/-- Every word with op 7 answers Unsupported, whatever its other bits, with no access and no request, and records a
refusal (R113). -/
def Obligations.PhaseOffsetIsUnsupported : Prop :=
  (∀ (s : State) (x : BitVec 28),
      exec (.setphase x) s = .next { s with trace := [], result := 5, refusalMark := true })
    ∧ ∀ w : Word, opField w = 7 → ∃ x, decode w = .setphase x

/-- Every word with op 8 to 15, and every word of op 0 to 6 with a bit set that R55 wants zero, answers Unsupported with
no access and no request, and records a refusal (R114). -/
def Obligations.ReservedWordsAreUnsupported : Prop :=
  (∀ (s : State) (w : Word),
      exec (.reserved w) s = .next { s with trace := [], result := 5, refusalMark := true })
    ∧ ∀ w : Word, (8 ≤ (opField w).toNat
        ∨ (opField w = 0 ∧ w.extractLsb' 0 21 ≠ 0)
        ∨ (opField w = 1 ∧ w.extractLsb' 3 18 ≠ 0)
        ∨ (opField w = 2 ∧ w.extractLsb' 6 15 ≠ 0)
        ∨ (opField w = 3 ∧ w.extractLsb' 0 16 ≠ 0)
        ∨ (opField w = 4 ∧ (w.extractLsb' 16 5 ≠ 0 ∨ w.extractLsb' 0 9 ≠ 0))
        ∨ (opField w = 5 ∧ (w.extractLsb' 9 12 ≠ 0 ∨ w.extractLsb' 0 6 ≠ 0))) → decode w = .reserved w

/-! ## RESULT, the refusal mark, the profile, reset -/

/-- The places of the fields in the result word (R53). -/
def Obligations.ResultWordHoldsEachFieldInItsPlace : Prop :=
  ∀ x : Answer, (resultWord x).extractLsb' 0 3 = statusCode x.status ∧ (resultWord x).extractLsb' 3 5 = 0
    ∧ (resultWord x).extractLsb' 8 4 = ownerField x.owner ∧ (resultWord x).extractLsb' 12 3 = stageField x.stage
    ∧ (resultWord x).extractLsb' 15 17 = 0

/-- A command sets the refusal mark exactly where it completes Unsupported, and no step clears it (R118). -/
def Obligations.RefusalMarkRecordsUnsupported : Prop :=
  (∀ (i : Instr) (s s' : State), exec i s = .next s' →
      (s'.refusalMark = true ↔ (s.refusalMark = true ∨ s'.result.extractLsb' 0 3 = 5)))
    ∧ ∀ s s' : State, step s = .next s' → s.refusalMark = true → s'.refusalMark = true

/-- No step changes the board profile (R132). -/
def Obligations.BoardProfileNeverChanges : Prop :=
  ∀ s s' : State, step s = .next s' → s'.board = s.board

/-- After reset every timer register and RESULT are 0, for the profile UNO328P, so every WGM field is Normal, every CS field
no clock and every COM field disconnected; a run may start from any register contents instead (R35, R36). That the refusal
mark is clear at reset is the model's choice (log entry 16). -/
def Obligations.ResetClearsTheRegisters : Prop :=
  (∀ r : Reg, readReg State.reset.timers r = 0) ∧ State.reset.result = 0 ∧ State.reset.board = uno328p
    ∧ (∀ t, wgmMeaning t (wgmField State.reset.timers t) = some (.normal, .fixed (maxCount uno328p t))
        ∧ csMeaning t (csField State.reset.timers t) = .stopped ∧ ∀ ch, comField State.reset.timers t ch = 0)
    ∧ State.reset.refusalMark = false
    ∧ ∀ (b : BoardProfile) (ts : Timers) (r : Reg), readReg (State.init b ts).timers r = readReg ts r

/-! ## Invariants -/

/-- The reset state meets the invariant, and its reserved bits are zero (R17 to R19, R35, R36). -/
def Obligations.ResetMeetsTheInvariant : Prop :=
  Inv State.reset ∧ ReservedZero State.reset.board State.reset.timers

/-- Every step keeps the invariant: compare registers within `max(t)`, RESULT of R53's form (statuses 0 to 5, never timer
3), and each command in progress one the block can have begun on its timer (R16, R24, R47, R53, R115). -/
def Obligations.EveryStepKeepsTheInvariant : Prop :=
  ∀ s s' : State, Inv s → step s = .next s' → Inv s'

/-- Every step keeps the bits of `heldBits` that hold nothing at zero: CTRL_A[3:2], CTRL_B[7:4] of T0 and T2, CTRL_B[5]
of T1. For commands this follows from R24; that an outside write leaves zero there is the model's reading of R17 to R19 (log
entry 11). -/
def Obligations.ReservedBitsStayZero : Prop :=
  ∀ s s' : State, Inv s → ReservedZero s.board s.timers → step s = .next s' → ReservedZero s'.board s'.timers

/-- No command changes a bit the block does not own, whatever the state holds there (R24). -/
def Obligations.CommandsKeepTheBitsTheyDoNotOwn : Prop :=
  ∀ (i : Instr) (s s' : State), exec i s = .next s' →
    ∀ t c, unownedPart s'.timers t c = unownedPart s.timers t c

/-! ## Runs -/

/-- A list of commands from one caller runs to its end, one step each: no command waits or stops (R120, R130, R143). -/
def Obligations.EveryCommandListRunsToItsEnd : Prop :=
  ∀ (s : State) (ws : List Word), s.inFlight = ⟨none, none, none⟩ → s.inputs = ws.map .command →
    ∃ t, Host.Core.run Sys2Proof.core ws.length s = .next t ∧ RunEnded t

/-- Under UNO328P a run of one caller's commands is good exactly where every word selects a row from RESOLVE to APPLY:
error statuses do not spoil it, SETPHASE and reserved words do (R63, R118, R130). -/
def Obligations.UnoRunIsGoodExactlyWithoutUnsupportedWords : Prop :=
  ∀ (s : State) (ws : List Word), s.board = uno328p → s.inFlight = ⟨none, none, none⟩ → s.refusalMark = false →
    s.inputs = ws.map .command → (GoodRun s ↔ ∀ w ∈ ws, (opcodeRows.take 7).any (·.selects w) = true)

/-! ## Several callers -/

/-- A command faults exactly where its pin's timer has a command in progress, and else it completes; RESOLVE, SETPHASE and
reserved words, on no timer, never fault (R49). That RESOLVE is on no timer is the model's choice (log entry 6), and so is
the fault of a command that would end with an error status (log entry 7). -/
def Obligations.CommandFaultsExactlyOnABusyTimer : Prop :=
  ∀ (i : Instr) (s : State),
    ((∃ pin t ch, timerPin i = some pin ∧ resolvePin s.board pin = some (t, ch) ∧ isBusy s t = true) →
        exec i s = .fault .concurrentAccess)
      ∧ (¬ (∃ pin t ch, timerPin i = some pin ∧ resolvePin s.board pin = some (t, ch) ∧ isBusy s t = true) →
        ∃ s', exec i s = .next s')

/-- A run faults where a command is begun on a timer with a command in progress, and where an outside agent writes a
register of a timer between two accesses of a command on it; once faulted it stays so (R49). That a command with an error
status faults too is the model's choice (log entry 7), and so is what counts as between two accesses (log entry 8). -/
def Obligations.OverlappingUseOfATimerFaultsTheRun : Prop :=
  (∀ (s : State) (w : Word) (rest : List Input) (pin : Pin) (t : Timer) (ch : Channel),
      timerPin (decode w) = some pin → resolvePin s.board pin = some (t, ch) → isBusy s t = true →
      (s.inputs = .start w :: rest ∨ s.inputs = .command w :: rest) →
      ∀ k, Host.Core.run Sys2Proof.core (k + 1) s = .fault .concurrentAccess)
    ∧ ∀ (s : State) (r : Reg) (v : Half) (rest : List Input), isMidway s r.timer = true →
      s.inputs = .foreignWrite r v :: rest → ∀ k, Host.Core.run Sys2Proof.core (k + 1) s = .fault .concurrentAccess

/-- An outside write to a timer no command is midway on gives the register its value, which the block then reads, and
changes no other register (R34), unless it is to a 16-bit compare register while a compare write is pending (R41). The bits
that hold the value are the model's reading of R17 to R19 (log entry 11) and its choice for 8-bit compare registers (log
entry 13); that a write after a start and before the first register access is no fault is its reading of R49 (log entry
8). -/
def Obligations.OutsideWriteReachesItsRegisterAlone : Prop :=
  ∀ (s : State) (r : Reg) (v : Half) (rest : List Input), isMidway s r.timer = false →
    (compareWritePending s r.timer = true → s.board.width.get r.timer = .w16 → ∃ c, r.name = .ctrl c) →
    s.inputs = .foreignWrite r v :: rest →
    ∃ us, step s = .next { s with timers := us, inputs := rest }
      ∧ readReg us r = v &&& heldBits s.board r ∧ ∀ q, q ≠ r → readReg us q = readReg s.timers q

/-- Where a 16-bit compare write of a command is pending, an outside use of the timer's shared temporary register faults,
and so does an outside write of one of its compare registers, which uses it (R41, R139). Elsewhere a use changes nothing.
That the write is pending from the access before it, or from the command's start where it is the first, is the model's
choice (log entry 10). -/
def Obligations.TemporaryRegisterUseFaultsOnAPendingCompareWrite : Prop :=
  ∀ (s : State) (t : Timer) (rest : List Input),
    ((∃ f u ch v more, s.inFlight.get t = some f ∧ f.rest = .write ⟨u, .ocr ch⟩ v :: more
        ∧ s.board.width.get t = .w16) →
      (s.inputs = .tempUse t :: rest ∨ ∃ ch v, s.inputs = .foreignWrite ⟨t, .ocr ch⟩ v :: rest) →
        step s = .fault .concurrentAccess)
      ∧ ((¬ ∃ f u ch v more, s.inFlight.get t = some f ∧ f.rest = .write ⟨u, .ocr ch⟩ v :: more
        ∧ s.board.width.get t = .w16) → s.inputs = .tempUse t :: rest → step s = .next { s with inputs := rest })

/-- A command begun with `start` and taken access by access, no other agent acting, ends in the very state of the command
run whole (R44, R47). That `start` and `advance` are how others come to act in between, and that an RMW takes two
advances, is the model's choice (log entries 3 and 9). -/
def Obligations.AccessByAccessEqualsTheWholeCommand : Prop :=
  ∀ (s s' : State) (w : Word), exec (decode w) s = .next s' →
    ∃ t n, Host.Core.run Sys2Proof.core (n + 1)
      { s with inputs := .start w :: (List.replicate n (.advance t) ++ s.inputs) } = .next s'

/-- Accesses of commands on different timers may come in either order: the registers, the commands in progress and the
refusal mark end the same (R49). An access is one `advance` (log entries 3 and 9). -/
def Obligations.AccessesOnDifferentTimersCommute : Prop :=
  ∀ (s : State) (t u : Timer), Inv s → t ≠ u →
    (advanceCommand t (advanceCommand u s)).timers = (advanceCommand u (advanceCommand t s)).timers
      ∧ (advanceCommand t (advanceCommand u s)).inFlight = (advanceCommand u (advanceCommand t s)).inFlight
      ∧ (advanceCommand t (advanceCommand u s)).refusalMark = (advanceCommand u (advanceCommand t s)).refusalMark
      ∧ (advanceCommand t s).timers.get u = s.timers.get u

/-- A whole command on one timer may come before or after an access of a command in progress on another: it completes in
both orders, and the registers, the commands in progress and the refusal mark end the same (R49). An access is one
`advance` (log entries 3 and 9). -/
def Obligations.CommandCommutesWithAnotherTimersAccess : Prop :=
  ∀ (s s' : State) (i : Instr) (pin : Pin) (t u : Timer) (ch : Channel), Inv s → t ≠ u →
    timerPin i = some pin → resolvePin s.board pin = some (t, ch) → exec i s = .next s' →
    ∃ s'', exec i (advanceCommand u s) = .next s'' ∧ s''.timers = (advanceCommand u s').timers
      ∧ s''.inFlight = (advanceCommand u s').inFlight ∧ s''.refusalMark = (advanceCommand u s').refusalMark

/-! ## What the timers make of the fields -/

/-- Under UNO328P each base pattern selects the hardware mode its WaveformMode names, and each refinement that mode with
the TOP its setting names (R25, R26, R76, R77, R82, R83). -/
def Obligations.UnoPatternsSelectTheNamedModes : Prop :=
  ∀ (t : Timer) (m : WaveformMode) (a : AdvancedModeSetting),
    (∀ w, (uno328p.modeTable.get t).get m = some w → ∃ top, wgmMeaning t w = some (countModeOf m, top))
      ∧ ∀ r, refinement uno328p t m a = some r → wgmMeaning t r = some (countModeOf m, topOf a)

/-- Under UNO328P an accepted SETMODE, SETADV or APPLY never leaves a reserved WGM value, and an accepted SETFREQ or APPLY
always leaves a divided clock, never none and never an external one (R25, R26, R27, R90). -/
def Obligations.UnoNeverSelectsAReservedModeOrOutsideClock : Prop :=
  ∀ (s s' : State) (pin : Pin) (mode setting otype : BitVec 3) (p : BitVec 7) (freq : BitVec 5) (t : Timer) (ch : Channel),
    s.board = uno328p → resolvePin uno328p pin = some (t, ch) → s'.result = 0 →
      (exec (.setmode pin mode) s = .next s' ∨ exec (.setadv pin mode setting) s = .next s'
          ∨ exec (.apply pin mode setting otype p freq) s = .next s' →
          wgmMeaning t (wgmField s'.timers t) ≠ none)
        ∧ (exec (.setfreq pin freq) s = .next s' ∨ exec (.apply pin mode setting otype p freq) s = .next s' →
          ∃ n, csMeaning t (csField s'.timers t) = .divided n)

/-- Under UNO328P the choices each timer supports, with their clock-select patterns, are those of R90, and the nominal
frequency of each, rounded down, is the number in its name (R60, R93). -/
def Obligations.UnoChoicesBearTheirNominalFrequency : Prop :=
  [FrequencyChoice.f62500, .f15625, .f7812, .f1953, .f976, .f488, .f244, .f61, .f15].map
      (fun f => ((uno328p.freqTable.get .t0).get f, (uno328p.freqTable.get .t1).get f, (uno328p.freqTable.get .t2).get f))
    = [(some 0b001, none, some 0b001), (none, some 0b001, none), (some 0b010, none, some 0b010),
      (none, some 0b010, some 0b011), (some 0b011, none, some 0b100), (none, none, some 0b101),
      (some 0b100, some 0b011, some 0b110), (some 0b101, some 0b100, some 0b111), (none, some 0b101, none)]
    ∧ (∀ t : Timer, csPattern uno328p t 0 = none ∧ ∀ k : BitVec 5, 10 ≤ k.toNat → csPattern uno328p t k = none)
    ∧ [FrequencyChoice.f62500, .f15625, .f7812, .f1953, .f976, .f488, .f244, .f61, .f15].map choiceHz
      = [62500, 15625, 7812, 1953, 976, 488, 244, 61, 15]
    ∧ ∀ (t : Timer) (f : FrequencyChoice), (uno328p.freqTable.get t).get f ≠ none →
      nominalHz uno328p t f = some (choiceHz f)

/-- Each register stands at its address of R38, with two bytes for T1's compare registers and one for the others; MemRead
and MemWrite there are the named read and write, and the 16-bit compare registers have their low byte at the lower address
(R10, R38, R39). That the block's registers are reached this way is a view of the model's that no command uses (log entry
17). -/
def Obligations.AddressesReachTheNamedRegisters : Prop :=
  [(⟨.t0, .ctrl .a⟩ : Reg), ⟨.t0, .ctrl .b⟩, ⟨.t0, .ocr .a⟩, ⟨.t0, .ocr .b⟩, ⟨.t1, .ctrl .a⟩, ⟨.t1, .ctrl .b⟩,
      ⟨.t1, .ocr .a⟩, ⟨.t1, .ocr .b⟩, ⟨.t2, .ctrl .a⟩, ⟨.t2, .ctrl .b⟩, ⟨.t2, .ocr .a⟩, ⟨.t2, .ocr .b⟩].map
      (fun r => (regAddr r, regSize r))
    = [(0x44, 1), (0x45, 1), (0x47, 1), (0x48, 1), (0x80, 1), (0x81, 1), (0x88, 2), (0x8A, 2), (0xB0, 1), (0xB1, 1),
      (0xB3, 1), (0xB4, 1)]
    ∧ ∀ (b : BoardProfile) (ts : Timers) (r q : Reg) (ch : Channel) (v : Half),
      (regAddr r = regAddr q → r = q)
        ∧ memRead ts (regAddr r) (regSize r) = some (readReg ts r)
        ∧ memWrite b ts (regAddr r) (regSize r) v = some (writeReg b ts r v)
        ∧ byteAt ts (regAddr ⟨.t1, .ocr ch⟩) = some ((ocrField ts .t1 ch).extractLsb' 0 8)
        ∧ byteAt ts (regAddr ⟨.t1, .ocr ch⟩ + 1) = some ((ocrField ts .t1 ch).extractLsb' 8 8)
end

