-- ==== Sys2Proof/Laws/State.lean ====
section
/-! SUPPORT. One lemma for each field of State after each update, and for one timer's entry after another's is set: later
proofs cite these and unfold no record update. -/

namespace Sys2Proof.Machine

@[simp] theorem perTimer_get_set_same {α : Type} (x : PerTimer α) (t : Timer) (v : α) : (x.set t v).get t = v := by
  cases t <;> rfl

theorem perTimer_get_set_ne {α : Type} (x : PerTimer α) {t u : Timer} (v : α) (h : u ≠ t) :
    (x.set t v).get u = x.get u := by
  cases t <;> cases u <;> first | rfl | exact absurd rfl h

theorem perTimer_set_get_self {α : Type} (x : PerTimer α) (t : Timer) : x.set t (x.get t) = x := by
  cases t <;> rfl

@[simp] theorem perTimer_set_set {α : Type} (x : PerTimer α) (t : Timer) (v w : α) :
    (x.set t v).set t w = x.set t w := by
  cases t <;> rfl

theorem perTimer_set_comm {α : Type} (x : PerTimer α) {t u : Timer} (v w : α) (h : t ≠ u) :
    (x.set t v).set u w = (x.set u w).set t v := by
  cases t <;> cases u <;> first | rfl | exact absurd rfl h

@[simp] theorem complete_timers (s : State) (ts : Timers) (tr : List Event) (x : Answer) :
    (complete s ts tr x).timers = ts := rfl
@[simp] theorem complete_trace (s : State) (ts : Timers) (tr : List Event) (x : Answer) :
    (complete s ts tr x).trace = tr := rfl
@[simp] theorem complete_result (s : State) (ts : Timers) (tr : List Event) (x : Answer) :
    (complete s ts tr x).result = resultWord x := rfl
@[simp] theorem complete_refusalMark (s : State) (ts : Timers) (tr : List Event) (x : Answer) :
    (complete s ts tr x).refusalMark = (s.refusalMark || x.status == .unsupported) := rfl
@[simp] theorem complete_board (s : State) (ts : Timers) (tr : List Event) (x : Answer) :
    (complete s ts tr x).board = s.board := rfl
@[simp] theorem complete_inFlight (s : State) (ts : Timers) (tr : List Event) (x : Answer) :
    (complete s ts tr x).inFlight = s.inFlight := rfl
@[simp] theorem complete_inputs (s : State) (ts : Timers) (tr : List Event) (x : Answer) :
    (complete s ts tr x).inputs = s.inputs := rfl

@[simp] theorem issue_timers (w : Word) (s : State) : (issue w s).timers = s.timers := rfl
@[simp] theorem issue_result (w : Word) (s : State) : (issue w s).result = s.result := rfl
@[simp] theorem issue_refusalMark (w : Word) (s : State) : (issue w s).refusalMark = s.refusalMark := rfl
@[simp] theorem issue_trace (w : Word) (s : State) : (issue w s).trace = s.trace := rfl
@[simp] theorem issue_board (w : Word) (s : State) : (issue w s).board = s.board := rfl
@[simp] theorem issue_inFlight (w : Word) (s : State) : (issue w s).inFlight = s.inFlight := rfl
@[simp] theorem issue_inputs (w : Word) (s : State) : (issue w s).inputs = .command w :: s.inputs := rfl

@[simp] theorem init_timers (b : BoardProfile) (ts : Timers) : (State.init b ts).timers = ts := rfl
@[simp] theorem init_board (b : BoardProfile) (ts : Timers) : (State.init b ts).board = b := rfl
@[simp] theorem init_result (b : BoardProfile) (ts : Timers) : (State.init b ts).result = 0 := rfl
@[simp] theorem init_refusalMark (b : BoardProfile) (ts : Timers) : (State.init b ts).refusalMark = false := rfl
@[simp] theorem init_trace (b : BoardProfile) (ts : Timers) : (State.init b ts).trace = [] := rfl
@[simp] theorem init_inputs (b : BoardProfile) (ts : Timers) : (State.init b ts).inputs = [] := rfl
@[simp] theorem init_inFlight (b : BoardProfile) (ts : Timers) : (State.init b ts).inFlight = ⟨none, none, none⟩ := rfl

end Sys2Proof.Machine
end

