-- ==== Sys2Proof/Laws/Registers.lean ====
section
/-! SUPPORT. Reading and writing the timer registers: a read after a write of the same register, the registers a write
leaves alone, and the fields of R20 to R22 after the read-modify-writes that set them. -/

namespace Sys2Proof.Machine

/-- The value a register holds after `v` is written to it (R23). -/
def heldValue (b : BoardProfile) (r : Reg) (v : Half) : Half :=
  match r.name with
  | .ctrl _ => (v.setWidth 8).setWidth 16
  | .ocr _ => fitOcr b r.timer v

theorem readReg_writeReg_same (b : BoardProfile) (ts : Timers) (r : Reg) (v : Half) :
    readReg (writeReg b ts r v) r = heldValue b r v := by
  obtain ⟨t, n⟩ := r
  rcases n with ⟨_ | _⟩ | ⟨_ | _⟩ <;> simp [readReg, writeReg, heldValue]

theorem readReg_writeReg_ne (b : BoardProfile) (ts : Timers) {r q : Reg} (v : Half) (h : q ≠ r) :
    readReg (writeReg b ts r v) q = readReg ts q := by
  obtain ⟨t, n⟩ := r
  obtain ⟨u, m⟩ := q
  by_cases htu : u = t
  · subst htu
    rcases n with ⟨_ | _⟩ | ⟨_ | _⟩ <;> rcases m with ⟨_ | _⟩ | ⟨_ | _⟩ <;>
      first | exact absurd rfl h | simp [readReg, writeReg]
  · rcases n with ⟨_ | _⟩ | ⟨_ | _⟩ <;> simp [readReg, writeReg, perTimer_get_set_ne _ _ htu]

theorem writeReg_get_ne (b : BoardProfile) (ts : Timers) (r : Reg) (v : Half) {u : Timer} (h : u ≠ r.timer) :
    (writeReg b ts r v).get u = ts.get u := by
  obtain ⟨t, n⟩ := r
  rcases n with ⟨_ | _⟩ | ⟨_ | _⟩ <;> exact perTimer_get_set_ne _ _ h

/-- The timer an access is on; the GPIO request is on none. -/
def accessTimer : Access → Option Timer
  | .gpio _ => none
  | .rmw t _ _ _ => some t
  | .write r _ => some r.timer

/-- What one primitive can do: it changes registers of its own timer alone, and adds one event to the trace. -/
theorem perform_spec (b : BoardProfile) (x : Timers × List Event) (a : Access) :
    (∀ u, accessTimer a ≠ some u → (perform b x a).1.get u = x.1.get u)
      ∧ ∃ e, (perform b x a).2 = x.2 ++ [e] := by
  cases a with
  | gpio pin => exact ⟨fun _ _ => rfl, _, rfl⟩
  | rmw t c clr st => exact ⟨fun u h => writeReg_get_ne _ _ _ _ (fun e => h (by simp [accessTimer, e])), _, rfl⟩
  | write r v => exact ⟨fun u h => writeReg_get_ne _ _ _ _ (fun e => h (by simp [accessTimer, e])), _, rfl⟩

@[simp] theorem performAll_nil (b : BoardProfile) (x : Timers × List Event) : performAll b x [] = x := rfl

@[simp] theorem performAll_cons (b : BoardProfile) (x : Timers × List Event) (a : Access) (as : List Access) :
    performAll b x (a :: as) = performAll b (perform b x a) as := rfl

@[simp] theorem performAll_append (b : BoardProfile) (x : Timers × List Event) (as bs : List Access) :
    performAll b x (as ++ bs) = performAll b (performAll b x as) bs := by
  simp [performAll, List.foldl_append]

/-- Accesses on one timer leave the others' registers alone. -/
theorem performAll_get_ne (b : BoardProfile) (as : List Access) (x : Timers × List Event) {u : Timer}
    (h : ∀ a ∈ as, accessTimer a ≠ some u) : (performAll b x as).1.get u = x.1.get u := by
  induction as generalizing x with
  | nil => rfl
  | cons a as ih =>
    rw [performAll_cons, ih _ (fun a' h' => h a' (List.mem_cons_of_mem _ h')),
      (perform_spec b x a).1 u (h a List.mem_cons_self)]

/-- The trace before does not bear on the registers, and stays in front of the trace after. -/
theorem performAll_trace (b : BoardProfile) (as : List Access) (ts : Timers) (tr : List Event) :
    performAll b (ts, tr) as = ((performAll b (ts, []) as).1, tr ++ (performAll b (ts, []) as).2) := by
  induction as generalizing ts tr with
  | nil => simp
  | cons a as ih =>
    have h : ∀ tr', perform b (ts, tr') a = ((perform b (ts, []) a).1, tr' ++ (perform b (ts, []) a).2) := by
      intro tr'; cases a <;> simp [perform]
    rw [performAll_cons, performAll_cons, h tr, ih, ih (perform b (ts, []) a).1 (perform b (ts, []) a).2]
    simp

/-- The bits of an RMW's value: the set mask over the read value less the clear mask (R10). -/
theorem rmwValue_eq (old : Half) (clr st : Byte) :
    (rmwValue old clr st).setWidth 8 = (old.setWidth 8 &&& ~~~clr) ||| st := by
  simp [rmwValue]

end Sys2Proof.Machine
end

