-- ==== Sys2Proof/Laws/Plans.lean ====
section
/-! SUPPORT. What running a plan can do, what each named operation answers, and that every meaning runs the plan of its
command. -/

namespace Sys2Proof.Machine

/-- Everything running a plan can do: it faults where its timer has a command in progress, and else completes. -/
theorem runPlan_cases (p : Plan) (s : State) :
    (clashes s p.timer = true ∧ runPlan p s = .fault .concurrentAccess) ∨
    (clashes s p.timer = false ∧ runPlan p s =
      .next (complete s (performAll s.board (s.timers, []) p.accesses).1
        (performAll s.board (s.timers, []) p.accesses).2 p.answer)) := by
  unfold runPlan
  cases h : clashes s p.timer
  · exact .inr ⟨rfl, by simp⟩
  · exact .inl ⟨rfl, by simp⟩

/-- A plan answers a next state exactly where it does not clash, and then it is the completed state. -/
theorem runPlan_next (p : Plan) (s s' : State) (h : runPlan p s = .next s') :
    clashes s p.timer = false ∧ s' = complete s (performAll s.board (s.timers, []) p.accesses).1
      (performAll s.board (s.timers, []) p.accesses).2 p.answer := by
  rcases runPlan_cases p s with ⟨_, h'⟩ | ⟨hc, h'⟩
  · rw [h'] at h; cases h
  · rw [h'] at h; injection h with h; exact ⟨hc, h.symm⟩

/-- Every meaning runs the plan of its command. -/
theorem exec_eq_runPlan (i : Instr) (s : State) : exec i s = runPlan (planOf s.board i) s := by
  cases i <;> rfl

/-- A command whose pin the profile lacks, as a plan (R71). -/
theorem planAt_none {b : BoardProfile} {pin : Pin} (f : Timer → Channel → Plan) (h : resolvePin b pin = none) :
    planAt b pin f = rejectPlan .invalidPin := by
  simp [planAt, h]

/-- A command whose pin the profile has, as a plan (R71). -/
theorem planAt_some {b : BoardProfile} {pin : Pin} {t : Timer} {ch : Channel} (f : Timer → Channel → Plan)
    (h : resolvePin b pin = some (t, ch)) : planAt b pin f = f t ch := by
  simp [planAt, h]

/-- A rejected command only loads RESULT and empties the trace (R10, R71). -/
theorem runPlan_reject (st : Status) (s : State) :
    runPlan (rejectPlan st) s = .next (complete s s.timers [] (raised st)) := by
  simp [runPlan, rejectPlan, clashes]

/-- With no other command on its timer, a body's command completes with the body's accesses and status. -/
theorem runPlan_body {s : State} {t : Timer} (x : Body) (h : isBusy s t = false) :
    runPlan (bodyPlan t x) s = .next (complete s (performAll s.board (s.timers, []) x.accesses).1
      (performAll s.board (s.timers, []) x.accesses).2 (raised x.status)) := by
  simp [runPlan, bodyPlan, clashes, h]

/-- What an access of a command in progress leaves alone, whether it was the last or not. -/
theorem afterAccess_board_inputs (t : Timer) (f : InFlight) (rest : List Access) (touched : Bool) (ts : Timers)
    (tr : List Event) (s : State) :
    (afterAccess t f rest touched ts tr s).board = s.board ∧ (afterAccess t f rest touched ts tr s).inputs = s.inputs := by
  cases rest <;> exact ⟨rfl, rfl⟩

/-- Everything the beginning of a command can do: clash; complete at once, having no access to make or no timer; or be in
progress with all its accesses before it. -/
theorem beginPlan_cases (p : Plan) (s : State) :
    (clashes s p.timer = true ∧ beginPlan p s = .fault .concurrentAccess) ∨
    (clashes s p.timer = false ∧ (p.accesses = [] ∨ p.timer = none) ∧ beginPlan p s = runPlan p s) ∨
    (∃ t a as, p.timer = some t ∧ p.accesses = a :: as ∧ isBusy s t = false ∧
      beginPlan p s = .next { s with inFlight := s.inFlight.set t (some ⟨a :: as, false, [], p.answer⟩) }) := by
  obtain ⟨ot, as, x⟩ := p
  cases h : clashes s ot
  · rcases ot with _ | t
    · exact .inr (.inl ⟨rfl, .inr rfl, by simp [beginPlan, runPlan, h]⟩)
    · rcases as with _ | ⟨a, as⟩
      · exact .inr (.inl ⟨rfl, .inl rfl, by simp [beginPlan, runPlan, h]⟩)
      · exact .inr (.inr ⟨t, a, as, rfl, rfl, h, by simp [beginPlan, h]⟩)
  · exact .inl ⟨rfl, by simp [beginPlan, h]⟩

/-- When a 16-bit compare write is pending (R41). -/
theorem compareWritePending_iff (s : State) (t : Timer) :
    compareWritePending s t = true ↔ ∃ f u ch v more, s.inFlight.get t = some f
      ∧ f.rest = .write ⟨u, .ocr ch⟩ v :: more ∧ s.board.width.get t = .w16 := by
  unfold compareWritePending
  split
  · rename_i h; simp [h]
  · rename_i f h
    split
    · rename_i r v more hr
      obtain ⟨u, n⟩ := r
      cases n <;> simp [h, hr, usesTemp]
    · rename_i hr
      simp only [h, Option.some.injEq, Bool.false_eq_true, false_iff]
      rintro ⟨f', u, ch, v, more, rfl, hr', -⟩
      exact hr _ _ _ hr'

/-- Everything an outside write can do: clash, or change its register alone, to the bits it holds (R34, R41, R49). -/
theorem foreignWrite_cases (r : Reg) (v : Half) (s : State) :
    (writeClashes s r = true ∧ foreignWrite r v s = .fault .concurrentAccess) ∨
    (writeClashes s r = false ∧ foreignWrite r v s =
      .next { s with timers := writeReg s.board s.timers r (v &&& heldBits s.board r) }) := by
  cases h : writeClashes s r <;> simp [foreignWrite, h]

/-- An outside write to a control register clashes exactly midway of a command: it uses no temporary register. -/
@[simp] theorem writeClashes_ctrl (s : State) (t : Timer) (c : CtrlName) :
    writeClashes s ⟨t, .ctrl c⟩ = isMidway s t := by
  simp [writeClashes, usesTemp]

/-- With no command in progress on its timer an outside write never clashes. -/
theorem writeClashes_idle {s : State} {r : Reg} (h : s.inFlight.get r.timer = none) : writeClashes s r = false := by
  simp [writeClashes, isMidway, compareWritePending, h]

/-- What taking an input changes besides the registers, RESULT, the mark, the trace and the commands in progress: nothing. -/
theorem takeInput_board_inputs (x : Input) (s s' : State) (h : takeInput x s = .next s') :
    s'.board = s.board ∧ s'.inputs = s.inputs := by
  cases x with
  | command w =>
    obtain ⟨-, rfl⟩ := runPlan_next _ _ _ ((exec_eq_runPlan _ _).symm.trans h)
    exact ⟨rfl, rfl⟩
  | start w =>
    simp only [takeInput, beginPlan] at h
    split at h
    · cases h
    · split at h <;> (injection h with h; subst h; exact ⟨rfl, rfl⟩)
  | advance t =>
    simp only [takeInput, advanceCommand] at h
    injection h with h
    subst h
    split
    · exact ⟨rfl, rfl⟩
    · split <;> exact afterAccess_board_inputs ..
  | foreignWrite r v =>
    rcases foreignWrite_cases r v s with ⟨-, h'⟩ | ⟨-, h'⟩ <;> cases h'.symm.trans h
    exact ⟨rfl, rfl⟩
  | tempUse t =>
    simp only [takeInput, tempUse] at h
    split at h
    · cases h
    · injection h with h; subst h; exact ⟨rfl, rfl⟩

end Sys2Proof.Machine
end

