-- ==== Sys2Proof/Laws/Fields.lean ====
section
/-! SUPPORT. What each field write does, once: the registers after the accesses that set WGM, CS, COM or a compare
register, as field values and as the fields kept. -/

namespace Sys2Proof.Machine

/-- One RMW of CTRL_A, as registers and trace. -/
theorem perform_rmw_a (b : BoardProfile) (x : Timers × List Event) (t : Timer) (clr st : Byte) :
    perform b x (.rmw t .a clr st)
      = (x.1.set t { x.1.get t with ctrlA := ((x.1.get t).ctrlA &&& ~~~clr) ||| st },
        x.2 ++ [.wrote (regA t) ((((x.1.get t).ctrlA &&& ~~~clr) ||| st).setWidth 16)]) := by
  simp [perform, writeReg, readReg, rmwValue]

/-- One RMW of CTRL_B, as registers and trace. -/
theorem perform_rmw_b (b : BoardProfile) (x : Timers × List Event) (t : Timer) (clr st : Byte) :
    perform b x (.rmw t .b clr st)
      = (x.1.set t { x.1.get t with ctrlB := ((x.1.get t).ctrlB &&& ~~~clr) ||| st },
        x.2 ++ [.wrote (regB t) ((((x.1.get t).ctrlB &&& ~~~clr) ||| st).setWidth 16)]) := by
  simp [perform, writeReg, readReg, rmwValue]

/-- One write of a compare register, as registers and trace. -/
theorem perform_ocr (b : BoardProfile) (x : Timers × List Event) (t : Timer) (ch : Channel) (v : Half) :
    perform b x (.write ⟨t, .ocr ch⟩ v)
      = (writeReg b x.1 ⟨t, .ocr ch⟩ v, x.2 ++ [.wrote ⟨t, .ocr ch⟩ v]) := rfl

/-- A value within `max(t)` is held whole by a compare register of the timer (R23). -/
theorem fitOcr_of_le (b : BoardProfile) (t : Timer) (v : Half) (h : v.toNat ≤ maxCount b t) : fitOcr b t v = v := by
  unfold fitOcr
  unfold maxCount at h
  cases hw : b.width.get t <;> rw [hw] at h
  · apply BitVec.eq_of_toNat_eq
    simp only [Width.bits] at h
    simp
    omega

/-- A compare register never holds more than `max(t)` (R23). -/
theorem fitOcr_le (b : BoardProfile) (t : Timer) (v : Half) : (fitOcr b t v).toNat ≤ maxCount b t := by
  unfold fitOcr maxCount
  cases b.width.get t
  · simp [Width.bits]; omega
  · have := v.isLt; simp [Width.bits]; omega

/-- `duty_value` of a percentage up to 100 is at most `max(t)` (R99). -/
theorem dutyValue_le (b : BoardProfile) (t : Timer) {p : Nat} (h : p ≤ 100) : dutyValue b t p ≤ maxCount b t := by
  unfold dutyValue
  have := Nat.mul_le_mul_right (maxCount b t) h
  omega

/-- `max(t)` fits in 16 bits (R16). -/
theorem maxCount_lt (b : BoardProfile) (t : Timer) : maxCount b t < 65536 := by
  unfold maxCount
  cases b.width.get t <;> decide

/-- The value SETDUTY writes is `duty_value` itself: nothing is lost in 16 bits (R99). -/
theorem dutyValue_ofNat (b : BoardProfile) (t : Timer) {p : Nat} (h : p ≤ 100) :
    (BitVec.ofNat 16 (dutyValue b t p)).toNat = dutyValue b t p := by
  have h1 := dutyValue_le b t h
  have h2 := maxCount_lt b t
  simp
  omega

/-- The registers after the two RMWs of `WGM(t) <- w`: the field is `w` and nothing else changed (R20, R78). -/
theorem wgmAccesses_spec (b : BoardProfile) (ts : Timers) (t : Timer) (w : BitVec 4) :
    (let us := (performAll b (ts, []) (wgmAccesses t w)).1
     performAll b (ts, []) (wgmAccesses t w)
        = (us, [.wrote (regA t) (readReg us (regA t)), .wrote (regB t) (readReg us (regB t))])
      ∧ wgmField us t = w &&& wgmMask t ∧ KeepsAllButWgm t ts us) := by
  have hne : ∀ u, u ≠ t → (performAll b (ts, []) (wgmAccesses t w)).1.get u = ts.get u := fun u h =>
    performAll_get_ne b _ _ (by
      intro a ha
      simp only [wgmAccesses, List.mem_cons, List.not_mem_nil, or_false] at ha
      rcases ha with rfl | rfl <;> simpa [accessTimer] using Ne.symm h)
  refine ⟨?_, ?_, hne, ?_, ?_, ?_, ?_⟩
  · simp [wgmAccesses, perform_rmw_a, perform_rmw_b, readReg]
  · ext i hi
    cases t <;> interval_cases i <;>
      simp [wgmAccesses, perform_rmw_a, perform_rmw_b, wgmField, wgmMask, hiMask, hiBits, loBits]
  · ext i hi
    cases t <;> interval_cases i <;>
      simp [wgmAccesses, perform_rmw_a, perform_rmw_b, csField, hiMask, hiBits, loBits]
  · intro ch
    ext i hi
    cases ch <;> interval_cases i <;>
      simp [wgmAccesses, perform_rmw_a, perform_rmw_b, comField, comShift, loBits]
  · intro ch
    cases ch <;> simp [wgmAccesses, perform_rmw_a, perform_rmw_b, ocrField, readReg]
  · intro c
    ext i hi
    cases c <;> cases t <;> interval_cases i <;>
      simp [wgmAccesses, perform_rmw_a, perform_rmw_b, unownedPart, readReg, ownedBits, hiMask, hiBits, loBits]

/-- The registers after one RMW of CTRL_B within its CS bits: CS has the clear mask's bits cleared and the set mask's set,
and nothing else changed (R21). -/
theorem csAccess_spec (b : BoardProfile) (ts : Timers) (t : Timer) (clr st : BitVec 3) :
    (let us := (perform b (ts, []) (.rmw t .b (clr.setWidth 8) (st.setWidth 8))).1
     perform b (ts, []) (.rmw t .b (clr.setWidth 8) (st.setWidth 8)) = (us, [.wrote (regB t) (readReg us (regB t))])
      ∧ csField us t = (csField ts t &&& ~~~clr) ||| st ∧ KeepsAllButCs t ts us) := by
  have hne : ∀ u, u ≠ t → (perform b (ts, []) (.rmw t .b (clr.setWidth 8) (st.setWidth 8))).1.get u = ts.get u :=
    fun u h => (perform_spec b (ts, []) _).1 u (by simpa [accessTimer] using Ne.symm h)
  refine ⟨?_, ?_, hne, ?_, ?_, ?_, ?_⟩
  · simp [perform_rmw_b, readReg]
  · ext i hi
    interval_cases i <;> simp [perform_rmw_b, csField]
  · ext i hi
    cases t <;> interval_cases i <;> simp [perform_rmw_b, wgmField]
  · intro ch
    simp [perform_rmw_b, comField]
  · intro ch
    cases ch <;> simp [perform_rmw_b, ocrField, readReg]
  · intro c
    ext i hi
    cases c <;> cases t <;> interval_cases i <;> simp [perform_rmw_b, unownedPart, readReg, ownedBits]

/-- The registers after the RMW of `COM(t, ch) <- m`: the field is `m` and nothing else changed (R22, R106). -/
theorem comAccess_spec (b : BoardProfile) (ts : Timers) (t : Timer) (ch : Channel) (m : BitVec 2) :
    (let us := (perform b (ts, []) (comAccess t ch m)).1
     perform b (ts, []) (comAccess t ch m) = (us, [.wrote (regA t) (readReg us (regA t))])
      ∧ comField us t ch = m ∧ KeepsAllButCom t ch ts us) := by
  have hne : ∀ u, u ≠ t → (perform b (ts, []) (comAccess t ch m)).1.get u = ts.get u :=
    fun u h => (perform_spec b (ts, []) _).1 u (by simpa [accessTimer, comAccess] using Ne.symm h)
  refine ⟨?_, ?_, hne, ?_, ?_, ?_, ?_, ?_⟩
  · simp [comAccess, perform_rmw_a, readReg]
  · ext i hi
    cases ch <;> interval_cases i <;> simp [comAccess, perform_rmw_a, comField, comShift]
  · ext i hi
    cases ch <;> cases t <;> interval_cases i <;> simp [comAccess, perform_rmw_a, wgmField, comShift]
  · simp [comAccess, perform_rmw_a, csField]
  · intro k hk
    ext i hi
    cases ch <;> cases k <;> first
      | exact absurd rfl hk
      | (interval_cases i <;> simp [comAccess, perform_rmw_a, comField, comShift])
  · intro k
    cases k <;> simp [comAccess, perform_rmw_a, ocrField, readReg]
  · intro c
    ext i hi
    cases ch <;> cases c <;> cases t <;> interval_cases i <;>
      simp [comAccess, perform_rmw_a, unownedPart, readReg, ownedBits, comShift]

/-- The registers after the write of a compare register with a value within `max(t)`: the register holds it and nothing
else changed (R23, R98). -/
theorem ocrWrite_spec (b : BoardProfile) (ts : Timers) (t : Timer) (ch : Channel) (v : Half)
    (h : v.toNat ≤ maxCount b t) :
    ocrField (writeReg b ts ⟨t, .ocr ch⟩ v) t ch = v ∧ KeepsAllButOcr t ch ts (writeReg b ts ⟨t, .ocr ch⟩ v) := by
  have hf := fitOcr_of_le b t v h
  refine ⟨?_, fun u hu => writeReg_get_ne b ts _ v hu, ?_, ?_, ?_, ?_, ?_⟩
  · simp [ocrField, readReg_writeReg_same, heldValue, hf]
  · cases ch <;> cases t <;> simp [writeReg, wgmField]
  · cases ch <;> simp [writeReg, csField]
  · intro k
    cases ch <;> simp [writeReg, comField]
  · intro k hk
    exact readReg_writeReg_ne b ts v (by simpa using hk)
  · intro c
    exact congrArg (· &&& _) (readReg_writeReg_ne b ts v (by simp))

end Sys2Proof.Machine
end

