-- ==== Sys2Proof/Laws/PerInstr.lean ====
section
/-! SUPPORT. The per-instruction family OpField: the operation field of a command's encoding is the number R54 gives the
command, and 8 to 15 or another command's number for a reserved word. -/

namespace Sys2Proof.Laws.OpField

/-- The op field of a command's word (R54). -/
def Statement (i : Instr) : Prop :=
  match i with
  | .resolve _ => opField (encode i) = 0
  | .setmode _ _ => opField (encode i) = 1
  | .setadv _ _ _ => opField (encode i) = 2
  | .setfreq _ _ => opField (encode i) = 3
  | .setduty _ _ => opField (encode i) = 4
  | .setout _ _ => opField (encode i) = 5
  | .apply _ _ _ _ _ _ => opField (encode i) = 6
  | .setphase _ => opField (encode i) = 7
  | .reserved w => opField (encode i) = opField w

/-- The op field of a word packed from its fields (R51). -/
theorem opField_packWord (op : BitVec 4) (pin : Pin) (freq : BitVec 5) (duty : BitVec 7) (o a m : BitVec 3) :
    opField (packWord op pin freq duty o a m) = op := by
  apply BitVec.eq_of_getLsbD_eq
  intro i hi
  interval_cases i <;> simp [opField, packWord]

theorem resolve (pin : Pin) : Statement (.resolve pin) := opField_packWord ..
theorem setmode (pin : Pin) (m : BitVec 3) : Statement (.setmode pin m) := opField_packWord ..
theorem setadv (pin : Pin) (m a : BitVec 3) : Statement (.setadv pin m a) := opField_packWord ..
theorem setfreq (pin : Pin) (f : BitVec 5) : Statement (.setfreq pin f) := opField_packWord ..
theorem setduty (pin : Pin) (p : BitVec 7) : Statement (.setduty pin p) := opField_packWord ..
theorem setout (pin : Pin) (o : BitVec 3) : Statement (.setout pin o) := opField_packWord ..
theorem apply (pin : Pin) (m a o : BitVec 3) (p : BitVec 7) (f : BitVec 5) : Statement (.apply pin m a o p f) :=
  opField_packWord ..
theorem setphase (x : BitVec 28) : Statement (.setphase x) := by
  apply BitVec.eq_of_getLsbD_eq
  intro i hi
  simp only [opField, encode]
  interval_cases i <;> simp
theorem reserved (w : Word) : Statement (.reserved w) := rfl

end Sys2Proof.Laws.OpField
end

