-- ==== Sys2Proof/Laws/Runs.lean ====
section
/-! SUPPORT. A run one step at a time, and what each access of a command in progress does. -/

namespace Sys2Proof.Machine

/-- A run goes on from the state its first step answers. -/
theorem run_succ_next {s s' : State} (k : Nat) (h : step s = .next s') :
    Host.Core.run Sys2Proof.core (k + 1) s = Host.Core.run Sys2Proof.core k s' := by
  have hs : Sys2Proof.core.step s = .next s' := h
  simp only [Host.Core.run, hs]

/-- A run stops at a step that faults. -/
theorem run_succ_fault {s : State} {r : Fault} (k : Nat) (h : step s = .fault r) :
    Host.Core.run Sys2Proof.core (k + 1) s = .fault r := by
  have hs : Sys2Proof.core.step s = .fault r := h
  simp only [Host.Core.run, hs]

/-- A step takes the first input that waits. -/
theorem step_cons {s : State} {x : Input} {rest : List Input} (h : s.inputs = x :: rest) :
    step s = takeInput x { s with inputs := rest } := by
  simp [step, nextStep, h]

/-- A command issued is the next step's (R31). -/
theorem step_issue (w : Word) (s : State) : step (issue w s) = exec (decode w) s := rfl

/-- With no command in progress on a timer its advance changes nothing. -/
theorem advance_none {s : State} {t : Timer} (h : s.inFlight.get t = none) : advanceCommand t s = s := by
  simp [advanceCommand, h]

/-- The read of an RMW leaves the registers alone and the write of its value pending (R47). -/
theorem advance_rmw {s : State} {t u : Timer} {f : InFlight} {c : CtrlName} {clr st : Byte} {rest : List Access}
    (h : s.inFlight.get t = some f) (hr : f.rest = .rmw u c clr st :: rest) :
    advanceCommand t s = { s with inFlight := s.inFlight.set t (some
      ⟨.write ⟨u, .ctrl c⟩ (rmwValue (readReg s.timers ⟨u, .ctrl c⟩) clr st) :: rest, true, f.trace, f.answer⟩) } := by
  simp [advanceCommand, h, hr, afterAccess]

/-- A write that is not the last access reaches its register and the command's trace. -/
theorem advance_write {s : State} {t : Timer} {f : InFlight} {r : Reg} {v : Half} {a : Access} {rest : List Access}
    (h : s.inFlight.get t = some f) (hr : f.rest = .write r v :: a :: rest) :
    advanceCommand t s = { s with
      timers := writeReg s.board s.timers r v
      inFlight := s.inFlight.set t (some ⟨a :: rest, true, f.trace ++ [.wrote r v], f.answer⟩) } := by
  simp [advanceCommand, h, hr, afterAccess, perform]

/-- The last write completes the command (R120). -/
theorem advance_last_write {s : State} {t : Timer} {f : InFlight} {r : Reg} {v : Half}
    (h : s.inFlight.get t = some f) (hr : f.rest = [.write r v]) :
    advanceCommand t s = complete { s with inFlight := s.inFlight.set t none }
      (writeReg s.board s.timers r v) (f.trace ++ [.wrote r v]) f.answer := by
  simp [advanceCommand, h, hr, afterAccess, perform]

end Sys2Proof.Machine
end

