-- ==== Sys2Proof/Tests/Slice0.lean ====
section
/-! SUPPORT. The model's own tests: ill-formed commands refused, words decoded, one or two vectors of spec/95 for each
command, the concurrency vectors of its section 2.10, and a witness for the hypotheses of each statement. -/

namespace Sys2Proof.Tests

open Sys2Proof.Machine

/-- The registers of a timer whose compare registers are 0. -/
def ctrl (a b : Byte) : TimerRegs := ⟨a, b, 0, 0⟩

/-- The start state S1 of spec/95. -/
def s1 : State := State.init uno328p ⟨ctrl 0xA3 0x0C, ctrl 0xA3 0xDC, ctrl 0xA3 0x0C⟩

/-- The profile of spec/95 section 2.9: T2's tables are not implemented. -/
def boardNoT2 : BoardProfile := { uno328p with modeImpl := ⟨true, true, false⟩, freqImpl := ⟨true, true, false⟩ }

/-- A profile whose output table lacks TOGGLE on T0's channel A. -/
def boardNoToggle : BoardProfile :=
  { uno328p with outTable := { uno328p.outTable with t0 := ⟨{ unoOut with toggle := none }, unoOut⟩ } }

/-- What a state must be after a step that runs. -/
def ran (x : Host.Outcome State Fault Refusal) (p : State → Bool) : Bool :=
  match x with
  | .next s => p s
  | .fault _ => false
  | .refused _ => false

/-- The step faulted. -/
def faulted (x : Host.Outcome State Fault Refusal) : Bool :=
  match x with
  | .fault .concurrentAccess => true
  | .next _ => false
  | .refused _ => false

/-- The state after `k` steps on these inputs. -/
def after (k : Nat) (s : State) (xs : List Input) : Host.Outcome State Fault Refusal :=
  Host.Core.run Sys2Proof.core k { s with inputs := xs }

/-! Well-formedness: the one check, on the word of a reserved command. -/

theorem test_wellFormed_refuses_resolve_word : (Instr.reserved 0x00C00000).wellFormed = false := by decide
theorem test_wellFormed_refuses_setout_word : (Instr.reserved 0x50C00080).wellFormed = false := by decide
theorem test_wellFormed_refuses_phase_word : (Instr.reserved 0x70000000).wellFormed = false := by decide
theorem test_wellFormed_takes_op8 : (Instr.reserved 0x80000000).wellFormed = true := by decide
theorem test_wellFormed_takes_zero_bit_set : (Instr.reserved 0x00C00001).wellFormed = true := by decide

/-! Decoding: words of spec/95, each written out field by field (R51). -/

theorem test_decode_resolve : decode 0b0000_0001010_00000_0000000_000_000_000#32 = .resolve 10#7 := by decide
theorem test_decode_setmode : decode 0b0001_0001001_00000_0000000_000_000_100#32 = .setmode 9#7 4#3 := by decide
theorem test_decode_setadv : decode 0b0010_0001001_00000_0000000_000_011_001#32 = .setadv 9#7 1#3 3#3 := by decide
theorem test_decode_setfreq : decode 0b0011_0001011_01001_0000000_000_000_000#32 = .setfreq 11#7 9#5 := by decide
theorem test_decode_setduty : decode 0b0100_0001001_00000_1100100_000_000_000#32 = .setduty 9#7 100#7 := by decide
theorem test_decode_setout : decode 0b0101_0000101_00000_0000000_011_000_000#32 = .setout 5#7 3#3 := by decide
theorem test_decode_apply :
    decode 0b0110_0001001_00010_1100100_011_010_001#32 = .apply 9#7 1#3 2#3 3#3 100#7 2#5 := by decide
theorem test_decode_setphase : decode 0x7FFFFFFF#32 = .setphase 0xFFFFFFF#28 := by decide
theorem test_decode_reserved : decode 0xF0C00001#32 = .reserved 0xF0C00001#32 := by decide
theorem test_decode_zero_bit_set : decode 0x10C00009#32 = .reserved 0x10C00009#32 := by decide
theorem test_decodeTableWord : decodeTableWord 32 0x10C00001 = some (.setmode 6#7 1#3) := by decide
theorem test_assemble_apply :
    assemble (.apply 6#7 (.name .fast) (.name .bits8) (.name .enabled) 25#7 (.name .f976)) = 0x60C53281#32 := by decide
theorem test_assemble_setout : assemble (.setout 6#7 (.name .enabled)) = 0x50C00080#32 := by decide
theorem test_assemble_code : assemble (.setmode 6#7 (.code 7#3)) = 0x10C00007#32 := by decide

/-! Commands: vectors of spec/95 sections 1 and 2. -/

theorem test_resolve_answers_owner :
    ran (step (State.reset.withFetchWord 32 0x01400000)) (fun s => s.result == 0x00000D00#32 && s.trace == []) = true := by
  decide
theorem test_resolve_invalid_pin :
    ran (step (s1.withFetchWord 32 0x0FE00000)) (fun s => s.result == 1#32) = true := by decide
theorem test_setmode_pfc_on_t1 :
    ran (step (s1.withFetchWord 32 0x11200004)) (fun s => s.result == 0#32
      && s.trace == [.wrote ⟨.t1, .ctrl .a⟩ 0xA0, .wrote ⟨.t1, .ctrl .b⟩ 0xD4]) = true := by decide
theorem test_setmode_safe_default :
    ran (step (s1.withFetchWord 32 0x10C00004)) (fun s => s.result == 0#32
      && s.timers.t0 == ctrl 0xA0 0x04) = true := by decide
theorem test_setadv_overlay :
    ran (step (s1.withFetchWord 32 0x2120000A)) (fun s => s.timers.t1 == ctrl 0xA2 0xC4
      && s.trace == [.wrote ⟨.t1, .ctrl .a⟩ 0xA1, .wrote ⟨.t1, .ctrl .b⟩ 0xC4, .wrote ⟨.t1, .ctrl .a⟩ 0xA2]) = true := by
  decide
theorem test_setadv_undefined_setting :
    ran (step (s1.withFetchWord 32 0x21600034)) (fun s => s.result == 4#32 && s.timers == s1.timers) = true := by decide
theorem test_setfreq_clears_then_sets :
    ran (step (s1.withFetchWord 32 0x31290000)) (fun s => s.result == 0#32
      && s.trace == [.wrote ⟨.t1, .ctrl .b⟩ 0xD8, .wrote ⟨.t1, .ctrl .b⟩ 0xDD]) = true := by decide
theorem test_setfreq_other_timers_choice :
    ran (step (s1.withFetchWord 32 0x31210000)) (fun s => s.result == 2#32
      && s.trace == [.wrote ⟨.t1, .ctrl .b⟩ 0xD8]) = true := by decide
theorem test_setduty_floors_on_16_bits :
    ran (step (s1.withFetchWord 32 0x41404200)) (fun s => s.timers.t1 == ⟨0xA3, 0xDC, 0, 21626⟩) = true := by decide
theorem test_setduty_101 :
    ran (step (s1.withFetchWord 32 0x40C0CA00)) (fun s => s.result == 3#32 && s.trace == []) = true := by decide
theorem test_setout_channel_b :
    ran (step (s1.withFetchWord 32 0x50A000C0)) (fun s => s.timers.t0 == ctrl 0xB3 0x0C) = true := by decide
theorem test_setout_undefined_type :
    ran (step (s1.withFetchWord 32 0x51400100)) (fun s => s.result == 4#32 && s.timers == s1.timers) = true := by decide
theorem test_apply_A5 :
    ran (step (State.reset.withFetchWord 32 0x61665059)) (fun s => s.timers.t2 == ⟨0x43, 0x0D, 102, 0⟩
      && s.trace.head? == some (.gpioOut 11#7)) = true := by decide
theorem test_apply_stage_3 :
    ran (step (s1.withFetchWord 32 0x6127CA81)) (fun s => s.result == 0x3003#32 && s.timers.t1 == ctrl 0xA1 0xCB) = true := by
  decide
theorem test_setphase :
    ran (step (s1.withFetchWord 32 0x70C00000)) (fun s => s.result == 5#32 && s.refusalMark) = true := by decide
theorem test_reserved :
    ran (step (s1.withFetchWord 32 0x40C13200)) (fun s => s.result == 5#32 && s.refusalMark && s.timers == s1.timers)
      = true := by decide

/-! Section 2.10: SETFREQ 6, F976 with a handler's SETMODE 5 or SETDUTY 9 between its writes; a foreign write. -/

theorem test_overlap_on_one_timer_faults :
    faulted (after 4 State.reset [.start 0x30C50000, .advance .t0, .advance .t0, .command 0x10A00001]) = true := by decide
theorem test_overlap_on_two_timers_runs :
    ran (after 6 State.reset [.start 0x30C50000, .advance .t0, .advance .t0, .command 0x41206400, .advance .t0, .advance .t0])
      (fun s => s.timers.t0 == ctrl 0x00 0x03 && s.timers.t1 == ⟨0, 0, 32767, 0⟩ && s.inFlight.t0 == none) = true := by decide
theorem test_foreign_write_midway_faults :
    faulted (after 4 State.reset [.start 0x31220000, .advance .t1, .advance .t1, .foreignWrite ⟨.t1, .ocr .b⟩ 5]) = true := by
  decide
theorem test_temp_use_faults_before_compare_write :
    faulted (after 2 State.reset [.start 0x41206400, .tempUse .t1]) = true := by decide

theorem test_foreign_compare_write_faults_before_compare_write :
    faulted (after 2 State.reset [.start 0x41206400, .foreignWrite ⟨.t1, .ocr .b⟩ 5]) = true := by decide
theorem test_foreign_ctrl_write_runs_before_compare_write :
    ran (after 2 State.reset [.start 0x41206400, .foreignWrite ⟨.t1, .ctrl .a⟩ 3]) (fun s => s.timers.t1 == ctrl 3 0) = true := by
  decide

/-! Field meanings: rows of R107. -/

theorem test_pinAction_toggle_needs_ocra_top :
    (pinAction .t0 .a 0b011 0b01, pinAction .t0 .a 0b111 0b01, pinAction .t0 .b 0b111 0b01, pinAction .t1 .a 15 0b01)
      = (some .disconnected, some .toggle, none, some .toggle) := by decide
theorem test_profile_wellformed : profileWf uno328p = true := by decide

/-! Witnesses: hypotheses of the statements that some state and operands meet. -/

theorem witness_wellFormed : (Instr.reserved 0x80000000).wellFormed = true ∧ (Instr.setadv 9 1 2).wellFormed = true := by decide
theorem witness_row_selected_and_not :
    (∃ r ∈ opcodeRows, r.selects 0x10C00001 = true) ∧ ∀ r ∈ opcodeRows, r.selects 0x10C00009 = false := by decide
theorem witness_issued : (issue 0x10C00001 s1).inputs = .command 0x10C00001 :: [] := rfl
theorem witness_idle : State.reset.inputs = [] := rfl
theorem witness_resolve : resolvePin s1.board 9 = some (.t1, .a) ∧ resolvePin s1.board 127 = none := by decide
theorem witness_pins_distinct : pinMapWf uno328p.pinMap = true ∧ resolvePin uno328p 6 = some (.t0, .a) := by decide
theorem witness_shared_timer : resolvePin s1.board 3 = some (.t2, .b) ∧ resolvePin s1.board 11 = some (.t2, .a) := by decide
theorem witness_setmode : resolvePin s1.board 9 = some (.t1, .a) ∧ isBusy s1 .t1 = false ∧ s1.board.modeImpl.get .t1 = true
    ∧ modeOfCode 4 = some .pfc ∧ (s1.board.modeTable.get .t1).get .pfc = some 0b1000 := by decide
theorem witness_setmode_safe_default : resolvePin s1.board 6 = some (.t0, .a) ∧ isBusy s1 .t0 = false
    ∧ s1.board.modeImpl.get .t0 = true ∧ modeOfCode 4 = some .pfc ∧ (s1.board.modeTable.get .t0).get .pfc = none := by decide
theorem witness_codes_out_of_range : resolvePin s1.board 9 = some (.t1, .a) ∧ isBusy s1 .t1 = false
    ∧ s1.board.modeImpl.get .t1 = true ∧ 4 < (5#3).toNat ∧ modeOfCode 5 = none ∧ settingOfCode 5 = none
    ∧ 3 < (4#3).toNat ∧ outputOfCode 4 = none := by decide
theorem witness_unimplemented : resolvePin boardNoT2 11 = some (.t2, .a) ∧ boardNoT2.modeImpl.get .t2 = false
    ∧ boardNoT2.freqImpl.get .t2 = false ∧ isBusy (State.init boardNoT2 s1.timers) .t2 = false := by decide
theorem witness_setadv_refined : resolvePin s1.board 9 = some (.t1, .a) ∧ isBusy s1 .t1 = false
    ∧ s1.board.modeImpl.get .t1 = true ∧ modeOfCode 2 = some .phase ∧ settingOfCode 1 = some .bits9
    ∧ refinement s1.board .t1 .phase .bits9 = some 0b0010 := by decide
theorem witness_setadv_plain : resolvePin s1.board 9 = some (.t1, .a) ∧ isBusy s1 .t1 = false
    ∧ s1.board.modeImpl.get .t1 = true ∧ modeOfCode 0 = some .normal ∧ settingOfCode 4 = some .topIcr
    ∧ refinement s1.board .t1 .normal .topIcr = none := by decide
theorem witness_setfreq : resolvePin s1.board 9 = some (.t1, .a) ∧ isBusy s1 .t1 = false
    ∧ s1.board.freqImpl.get .t1 = true ∧ csPattern s1.board .t1 9 = some 0b101
    ∧ csPattern s1.board .t1 1 = none ∧ csPattern s1.board .t1 0 = none ∧ csPattern s1.board .t1 10 = none := by decide
theorem witness_setduty : (100#7).toNat ≤ 100 ∧ 100 < (101#7).toNat ∧ resolvePin s1.board 10 = some (.t1, .b)
    ∧ isBusy s1 .t1 = false ∧ resolvePin s1.board 0 = none := by decide
theorem witness_setout : resolvePin s1.board 6 = some (.t0, .a) ∧ isBusy s1 .t0 = false ∧ outputOfCode 3 = some .inverted
    ∧ ((s1.board.outTable.get .t0).get .a).get .inverted = some 0b11 := by decide
theorem witness_setout_safe_default : resolvePin boardNoToggle 6 = some (.t0, .a) ∧ outputOfCode 1 = some .toggle
    ∧ ((boardNoToggle.outTable.get .t0).get .a).get .toggle = none
    ∧ isBusy (State.init boardNoToggle s1.timers) .t0 = false := by decide
theorem witness_apply : resolvePin s1.board 9 = some (.t1, .a) ∧ isBusy s1 .t1 = false
    ∧ s1.board.modeImpl.get .t1 = true ∧ s1.board.freqImpl.get .t1 = true ∧ modeOfCode 1 = some .fast
    ∧ settingOfCode 2 = some .bits10 ∧ outputOfCode 3 = some .inverted ∧ csPattern s1.board .t1 2 = some 0b001
    ∧ (100#7).toNat ≤ 100 := by decide
theorem witness_apply_stages : resolvePin s1.board 9 = some (.t1, .a) ∧ isBusy s1 .t1 = false
    ∧ s1.board.modeImpl.get .t1 = true ∧ s1.board.freqImpl.get .t1 = true ∧ (4#3).toNat ≤ 4 ∧ 4 < (5#3).toNat ∧ csPattern s1.board .t1 3 = none
    ∧ csPattern s1.board .t1 2 ≠ none ∧ 100 < (101#7).toNat ∧ (3#3).toNat ≤ 3 ∧ 3 < (4#3).toNat := by decide
theorem witness_op7_and_reserved : opField 0x7FFFFFFF = 7 ∧ 8 ≤ (opField 0x80000000).toNat
    ∧ opField 0x10C00009 = 1 ∧ (0x10C00009#32).extractLsb' 3 18 ≠ 0 := by decide
theorem witness_exec_next : ∃ s', exec (decode 0x60C53281) s1 = .next s' ∧ decode 0x60C53281 = .apply 6 1 0 2 25 5 := ⟨_, rfl, by decide⟩
theorem witness_step_next : ∃ s', step (issue 0x70C00000 s1) = .next s' := ⟨_, rfl⟩
theorem witness_marked_step : ∃ s s', step (issue 0x00C00000 s) = .next s' ∧ s.refusalMark = true :=
  ⟨{ s1 with refusalMark := true }, _, rfl, rfl⟩
theorem witness_inv : Inv s1 ∧ ReservedZero s1.board s1.timers := by decide
theorem witness_command_list : s1.inFlight = ⟨none, none, none⟩ ∧ (issue 0x01200000 s1).inputs = [0x01200000].map .command
    ∧ s1.board = uno328p ∧ s1.refusalMark = false := ⟨rfl, rfl, rfl, rfl⟩

/-- S1 with a SETFREQ 6, F976 begun: its first read is made and the write it leads to is pending. -/
def midway : State := { s1 with inFlight :=
  ⟨some ⟨[.write ⟨.t0, .ctrl .b⟩ 0x08, .rmw .t0 .b 0 3], true, [], okAnswer⟩, none,
    some ⟨[.write ⟨.t2, .ocr .a⟩ 127], false, [], okAnswer⟩⟩ }

/-- `s` with an outside write of 0xFF to CTRL_A of `t` as its only input. -/
def foreign (s : State) (t : Timer) : State := { s with inputs := [.foreignWrite ⟨t, .ctrl .a⟩ 0xFF] }

theorem test_midway_is_reached :
    ran (after 3 s1 [.start 0x30C50000, .advance .t0, .start 0x41606400]) (fun s => s.inFlight == midway.inFlight) = true := by
  decide
theorem witness_busy : timerPin (decode 0x10A00001) = some 5 ∧ resolvePin midway.board 5 = some (.t0, .b)
    ∧ isBusy midway .t0 = true ∧ isMidway midway .t0 = true ∧ isMidway midway .t1 = false ∧ isMidway midway .t2 = false := by
  decide
theorem witness_overlap : (issue 0x10A00001 midway).inputs = .command 0x10A00001 :: []
    ∧ isBusy (issue 0x10A00001 midway) .t0 = true := by decide
theorem witness_outside_write : (foreign midway .t1).inputs = .foreignWrite ⟨.t1, .ctrl .a⟩ 0xFF :: []
    ∧ isMidway (foreign midway .t1) .t1 = false ∧ isMidway (foreign midway .t0) .t0 = true := by decide
theorem witness_inv_in_flight : Inv midway ∧ ReservedZero midway.board midway.timers := by decide
theorem witness_commuting : ∃ s', exec (.setduty 9 50) midway = .next s' ∧ timerPin (.setduty 9 50) = some 9
    ∧ resolvePin midway.board 9 = some (.t1, .a) := ⟨_, rfl, rfl, by decide⟩

/-- S1 with a SETDUTY 9, 50 begun: the 16-bit compare write is pending. -/
def comparePending : State :=
  { s1 with inFlight := ⟨none, some ⟨[.write ⟨.t1, .ocr .a⟩ 32767], false, [], okAnswer⟩, none⟩, inputs := [.tempUse .t1] }

theorem witness_temp_use : comparePending.inputs = .tempUse .t1 :: [] ∧ comparePending.board.width.get .t1 = .w16
    ∧ comparePending.inFlight.get .t1 = some ⟨.write ⟨.t1, .ocr .a⟩ 32767 :: [], false, [], okAnswer⟩
    ∧ faulted (step comparePending) = true := by decide
theorem witness_outside_compare_write : writeClashes comparePending ⟨.t1, .ocr .b⟩ = true
    ∧ isMidway comparePending .t1 = false ∧ compareWritePending comparePending .t1 = true
    ∧ (foreign comparePending .t1).inputs = .foreignWrite ⟨.t1, .ctrl .a⟩ 0xFF :: []
    ∧ ran (after 1 midway [.foreignWrite ⟨.t2, .ocr .a⟩ 7]) (fun s => s.timers.t2.ocrA == 7) = true := by decide
theorem witness_temp_use_harmless : { midway with inputs := [.tempUse .t2] }.inputs = .tempUse .t2 :: []
    ∧ midway.board.width.get .t2 = .w8 ∧ ran (after 1 midway [.tempUse .t2]) (· == midway) = true := by decide
theorem witness_uno_mode : ∃ s', exec (.setadv 9 1 4) s1 = .next s' ∧ s'.result = 0 ∧ s1.board = uno328p :=
  ⟨_, rfl, by decide, rfl⟩
theorem witness_uno_apply : ∃ s', exec (.apply 9 4 4 2 50 9) s1 = .next s' ∧ s'.result = 0 := ⟨_, rfl, by decide⟩
theorem witness_uno_freq : ∃ s', exec (.setfreq 11 8) s1 = .next s' ∧ s'.result = 0 := ⟨_, rfl, by decide⟩
theorem witness_uno_tables : (uno328p.modeTable.get .t1).get .pfc = some 0b1000
    ∧ refinement uno328p .t1 .pfc .topOcra = some 0b1001 ∧ (uno328p.freqTable.get .t2).get .f488 ≠ none := by decide
theorem witness_duty_bounds : (0 : Nat) ≤ 100 ∧ (100 : Nat) ≤ 100 := by decide

end Sys2Proof.Tests
end

section
/-! O58. The address map of R38: the registers stand on disjoint bytes, so an address names one register, whether it is
looked up with a size (R10) or byte by byte (R39). -/

namespace Sys2Proof.Machine

theorem mem_allRegs (r : Reg) : r ∈ allRegs := by
  obtain ⟨t, c | ch⟩ := r
  · cases t <;> cases c <;> decide
  · cases t <;> cases ch <;> decide

/-- The registers of R15 in the order of R38's table: each ends before the next begins. -/
theorem allRegs_in_address_order : allRegs.Pairwise fun r q => regAddr r + regSize r ≤ regAddr q := by decide

theorem regSize_pos (r : Reg) : 0 < regSize r := by
  unfold regSize
  split <;> decide

/-- The byte at `addr` is one of register `r`'s. -/
def CoversByte (r : Reg) (addr : Nat) : Prop := regAddr r ≤ addr ∧ addr < regAddr r + regSize r

theorem coversByte_regAddr_add {r : Reg} {i : Nat} (h : i < regSize r) : CoversByte r (regAddr r + i) :=
  ⟨Nat.le_add_right _ _, Nat.add_lt_add_left h _⟩

/-- Registers on disjoint bytes: this is what makes every look-up by address unambiguous. -/
theorem coversByte_unique {r q : Reg} {addr : Nat} (hr : CoversByte r addr) (hq : CoversByte q addr) : r = q := by
  by_contra hne
  have apart : allRegs.Pairwise fun x y => ¬ (CoversByte x addr ∧ CoversByte y addr) :=
    allRegs_in_address_order.imp fun hle ⟨⟨_, hx⟩, ⟨hy, _⟩⟩ => by omega
  have : Std.Symm fun x y => ¬ (CoversByte x addr ∧ CoversByte y addr) := ⟨fun _ _ h => h ∘ And.symm⟩
  exact apart.forall (mem_allRegs r) (mem_allRegs q) hne ⟨hr, hq⟩

theorem regAddr_injective : Function.Injective regAddr := fun r q h =>
  have hr : CoversByte r (regAddr r) := coversByte_regAddr_add (regSize_pos r)
  have hq : CoversByte q (regAddr q) := coversByte_regAddr_add (regSize_pos q)
  coversByte_unique hr (h ▸ hq)

theorem find?_allRegs_eq_some {p : Reg → Bool} {r : Reg} (hr : p r = true) (unique : ∀ q, p q = true → q = r) :
    allRegs.find? p = some r := by
  obtain ⟨q, hq⟩ := Option.isSome_iff_exists.mp (List.find?_isSome.mpr ⟨r, mem_allRegs r, hr⟩)
  rw [hq, unique q (List.find?_some hq)]

@[simp] theorem regAt_regAddr (r : Reg) : regAt (regAddr r) (regSize r) = some r :=
  find?_allRegs_eq_some (by simp) fun q hq => by
    have ⟨sameAddr, _⟩ : regAddr q = regAddr r ∧ regSize q = regSize r := by simpa using hq
    exact regAddr_injective sameAddr

theorem memRead_regAddr (ts : Timers) (r : Reg) : memRead ts (regAddr r) (regSize r) = some (readReg ts r) := by
  simp [memRead]

theorem memWrite_regAddr (b : BoardProfile) (ts : Timers) (r : Reg) (v : Half) :
    memWrite b ts (regAddr r) (regSize r) v = some (writeReg b ts r v) := by
  simp [memWrite]

/-- Byte `i` of a register, counted from its low byte, stands `i` places above its address (R39). -/
theorem byteAt_regAddr_add (ts : Timers) {r : Reg} {i : Nat} (h : i < regSize r) :
    byteAt ts (regAddr r + i) = some ((readReg ts r).extractLsb' (8 * i) 8) := by
  have covers : CoversByte r (regAddr r + i) := coversByte_regAddr_add h
  have found : (allRegs.find? fun q => regAddr q ≤ regAddr r + i && decide (regAddr r + i < regAddr q + regSize q))
      = some r :=
    find?_allRegs_eq_some (by simpa [CoversByte] using covers)
      fun q hq => coversByte_unique (by simpa [CoversByte] using hq) covers
  simp [byteAt, found]

theorem regSize_t1_ocr (ch : Channel) : regSize ⟨.t1, .ocr ch⟩ = 2 := rfl

/-- Settles O58: the table by evaluation, the accesses because the registers stand on disjoint bytes. -/
theorem addressesReachTheNamedRegisters : Obligations.AddressesReachTheNamedRegisters := by
  refine ⟨by decide, fun b ts r q ch v => ⟨fun h => regAddr_injective h, memRead_regAddr ts r,
    memWrite_regAddr b ts r v, ?lowByte, ?highByte⟩⟩
  case lowByte => exact byteAt_regAddr_add ts (i := 0) (by simp [regSize_t1_ocr])
  case highByte => exact byteAt_regAddr_add ts (i := 1) (by simp [regSize_t1_ocr])

end Sys2Proof.Machine
end

section
/-! The owned bits (R17 to R19, R24): what each access a plan may hold does to them, and that every command's plan holds
such accesses alone, on its own timer, with an answer of R53's form. -/

namespace Sys2Proof.Machine

/-! ### Accesses on the registers -/

@[simp] theorem planAccessOk_gpio (b : BoardProfile) (t : Timer) (pin : Pin) : planAccessOk b t (.gpio pin) = false := rfl

@[simp] theorem planAccessOk_rmw (b : BoardProfile) (t u : Timer) (c : CtrlName) (clr st : Byte) :
    planAccessOk b t (.rmw u c clr st) = true ↔
      u = t ∧ clr &&& ~~~(ownedBits t c) = 0 ∧ st &&& ~~~(ownedBits t c) = 0 := by
  simp [planAccessOk, and_assoc]

@[simp] theorem planAccessOk_write_ocr (b : BoardProfile) (t u : Timer) (ch : Channel) (v : Half) :
    planAccessOk b t (.write ⟨u, .ocr ch⟩ v) = true ↔ u = t ∧ v.toNat ≤ maxCount b t := by
  simp [planAccessOk]

@[simp] theorem planAccessOk_write_ctrl (b : BoardProfile) (t u : Timer) (c : CtrlName) (v : Half) :
    planAccessOk b t (.write ⟨u, .ctrl c⟩ v) = false := by
  simp [planAccessOk]

/-- No bit outside the owned ones differs, on any timer (R24). -/
def KeepsUnowned (ts us : Timers) : Prop := ∀ t c, unownedPart us t c = unownedPart ts t c

theorem KeepsUnowned.refl (ts : Timers) : KeepsUnowned ts ts := fun _ _ => rfl

theorem KeepsUnowned.trans {ts us vs : Timers} (h : KeepsUnowned ts us) (h' : KeepsUnowned us vs) : KeepsUnowned ts vs :=
  fun t c => (h' t c).trans (h t c)

/-- A control register is read as its byte. -/
theorem readReg_ctrl_byte (ts : Timers) (t : Timer) (c : CtrlName) :
    ((readReg ts ⟨t, .ctrl c⟩).setWidth 8).setWidth 16 = readReg ts ⟨t, .ctrl c⟩ := by
  cases c <;> simp [readReg]

theorem setWidth_byte_of_lt {v : Half} (h : v.toNat < 256) : (v.setWidth 8).setWidth 16 = v := by
  apply BitVec.eq_of_toNat_eq
  simp
  omega

theorem rmwValue_lt (old : Half) (clr st : Byte) : (rmwValue old clr st).toNat < 256 := by
  have := ((old.setWidth 8 &&& ~~~clr) ||| st).isLt
  simp only [rmwValue, BitVec.toNat_setWidth]
  omega

/-- An RMW within the bits `own` keeps every other bit of the value it read. -/
theorem rmwValue_unowned (old : Half) {own clr st : Byte} (hclr : clr &&& ~~~own = 0) (hst : st &&& ~~~own = 0) :
    rmwValue old clr st &&& ~~~(own.setWidth 16) = (old.setWidth 8).setWidth 16 &&& ~~~(own.setWidth 16) := by
  ext i hi
  have hc := congrArg (·.getLsbD i) hclr
  have hs := congrArg (·.getLsbD i) hst
  by_cases h8 : i < 8
  · simp [h8] at hc hs
    cases ho : own.getLsbD i <;> simp_all [rmwValue]
  · simp [rmwValue, h8, BitVec.getLsbD_of_ge st i (Nat.le_of_not_lt h8)]

/-- A write of a control register that keeps its unowned bits keeps every unowned bit there is. -/
theorem keepsUnowned_write_ctrl (b : BoardProfile) {ts : Timers} {t : Timer} {c : CtrlName} {v : Half}
    (hlt : v.toNat < 256) (hv : v &&& ~~~((ownedBits t c).setWidth 16) = unownedPart ts t c) :
    KeepsUnowned ts (writeReg b ts ⟨t, .ctrl c⟩ v) := by
  intro u d
  by_cases h : (⟨u, .ctrl d⟩ : Reg) = ⟨t, .ctrl c⟩
  · cases h
    rw [unownedPart, readReg_writeReg_same, ← hv]
    simp only [heldValue, setWidth_byte_of_lt hlt]
  · rw [unownedPart, readReg_writeReg_ne b ts v h, unownedPart]

theorem keepsUnowned_write_ocr (b : BoardProfile) (ts : Timers) (t : Timer) (ch : Channel) (v : Half) :
    KeepsUnowned ts (writeReg b ts ⟨t, .ocr ch⟩ v) := by
  intro u d
  rw [unownedPart, readReg_writeReg_ne b ts v (by simp), unownedPart]

/-- The value an allowed RMW writes keeps the bits the block does not own (R24). -/
theorem rmwValue_readReg_unowned (b : BoardProfile) (ts : Timers) {t u : Timer} {c : CtrlName} {clr st : Byte}
    (h : planAccessOk b t (.rmw u c clr st) = true) :
    rmwValue (readReg ts ⟨u, .ctrl c⟩) clr st &&& ~~~((ownedBits t c).setWidth 16) = unownedPart ts t c := by
  obtain ⟨rfl, hclr, hst⟩ := (planAccessOk_rmw ..).mp h
  rw [rmwValue_unowned _ hclr hst, readReg_ctrl_byte, unownedPart]

/-- An access a plan may hold changes no unowned bit (R24). -/
theorem perform_keepsUnowned {b : BoardProfile} {t : Timer} {a : Access} (x : Timers × List Event)
    (h : planAccessOk b t a = true) : KeepsUnowned x.1 (perform b x a).1 := by
  cases a with
  | gpio pin => exact KeepsUnowned.refl _
  | rmw u c clr st =>
    obtain ⟨rfl, -, -⟩ := (planAccessOk_rmw ..).mp h
    exact keepsUnowned_write_ctrl b (rmwValue_lt ..) (rmwValue_readReg_unowned b x.1 h)
  | write r v =>
    obtain ⟨u, c | ch⟩ := r
    · simp at h
    · exact keepsUnowned_write_ocr b x.1 u ch v

theorem mem_allTimers (t : Timer) : t ∈ [Timer.t0, .t1, .t2] := by cases t <;> decide

theorem timersFit_iff (b : BoardProfile) (ts : Timers) :
    TimersFit b ts ↔ ∀ t ch, (ocrField ts t ch).toNat ≤ maxCount b t :=
  ⟨fun h t ch => h t (mem_allTimers t) ch (by cases ch <;> decide), fun h t _ ch _ => h t ch⟩

/-- No write puts more than `max(t)` into a compare register (R16, R23). -/
theorem timersFit_writeReg {b : BoardProfile} {ts : Timers} (r : Reg) (v : Half) (h : TimersFit b ts) :
    TimersFit b (writeReg b ts r v) := by
  rw [timersFit_iff] at h ⊢
  intro t ch
  by_cases hr : (⟨t, .ocr ch⟩ : Reg) = r
  · subst hr
    rw [ocrField, readReg_writeReg_same]
    exact fitOcr_le b t v
  · rw [ocrField, readReg_writeReg_ne b ts v hr]
    exact h t ch

theorem timersFit_perform {b : BoardProfile} (x : Timers × List Event) (a : Access) (h : TimersFit b x.1) :
    TimersFit b (perform b x a).1 := by
  cases a with
  | gpio pin => exact h
  | rmw u c clr st => exact timersFit_writeReg _ _ h
  | write r v => exact timersFit_writeReg _ _ h

theorem timersFit_performAll {b : BoardProfile} (as : List Access) (x : Timers × List Event) (h : TimersFit b x.1) :
    TimersFit b (performAll b x as).1 := by
  induction as generalizing x with
  | nil => exact h
  | cons a as ih => exact ih _ (timersFit_perform x a h)

/-- Every access is one a plan on `t` may hold. -/
def OwnAccesses (b : BoardProfile) (t : Timer) (as : List Access) : Prop := as.all (planAccessOk b t) = true

@[simp] theorem ownAccesses_nil (b : BoardProfile) (t : Timer) : OwnAccesses b t [] := by simp [OwnAccesses]

@[simp] theorem ownAccesses_cons (b : BoardProfile) (t : Timer) (a : Access) (as : List Access) :
    OwnAccesses b t (a :: as) ↔ planAccessOk b t a = true ∧ OwnAccesses b t as := by
  simp [OwnAccesses]

@[simp] theorem ownAccesses_append (b : BoardProfile) (t : Timer) (as bs : List Access) :
    OwnAccesses b t (as ++ bs) ↔ OwnAccesses b t as ∧ OwnAccesses b t bs := by
  simp [OwnAccesses]

theorem performAll_keepsUnowned {b : BoardProfile} {t : Timer} (as : List Access) (x : Timers × List Event)
    (h : OwnAccesses b t as) : KeepsUnowned x.1 (performAll b x as).1 := by
  induction as generalizing x with
  | nil => exact KeepsUnowned.refl _
  | cons a as ih =>
    obtain ⟨ha, has⟩ := (ownAccesses_cons ..).mp h
    exact (perform_keepsUnowned x ha).trans (ih _ has)

/-! ### The bodies of the operations -/

theorem loBits_owned (w : BitVec 4) (t : Timer) : loBits w &&& ~~~(ownedBits t .a) = 0 := by
  revert w; cases t <;> decide

theorem hiBits_owned (w : BitVec 4) (t : Timer) : hiBits t w &&& ~~~(ownedBits t .b) = 0 := by
  revert w; cases t <;> decide

theorem csBits_owned (c : BitVec 3) (t : Timer) : c.setWidth 8 &&& ~~~(ownedBits t .b) = 0 := by
  revert c; cases t <;> decide

theorem comBits_owned (m : BitVec 2) (t : Timer) (ch : Channel) :
    m.setWidth 8 <<< comShift ch &&& ~~~(ownedBits t .a) = 0 := by
  revert m; cases t <;> cases ch <;> decide

theorem ownAccesses_wgm (b : BoardProfile) (t : Timer) (w : BitVec 4) : OwnAccesses b t (wgmAccesses t w) := by
  have hmask : 0b00000011#8 &&& ~~~(ownedBits t .a) = 0 ∧ hiMask t &&& ~~~(ownedBits t .b) = 0 := by
    cases t <;> decide
  simpa [wgmAccesses, loBits_owned, hiBits_owned] using hmask

theorem ownAccesses_overlay (b : BoardProfile) (t : Timer) (base r : BitVec 4) :
    OwnAccesses b t (overlayAccesses t base r) := by
  refine (ownAccesses_append ..).mpr ⟨?ctrlA, ?ctrlB⟩ <;> split
  all_goals simp [loBits_owned, hiBits_owned]

theorem ownAccesses_setmodeBody (b : BoardProfile) (t : Timer) (mode : BitVec 3) :
    OwnAccesses b t (setmodeBody b t mode).accesses := by
  unfold setmodeBody
  split
  · simp
  · exact ownAccesses_wgm ..

theorem ownAccesses_setadvBody (b : BoardProfile) (t : Timer) (mode setting : BitVec 3) :
    OwnAccesses b t (setadvBody b t mode setting).accesses := by
  unfold setadvBody
  split
  · refine (ownAccesses_append ..).mpr ⟨ownAccesses_wgm .., ?_⟩
    split
    · simp
    · exact ownAccesses_overlay ..
  · simp

theorem ownAccesses_setfreqBody (b : BoardProfile) (t : Timer) (freq : BitVec 5) :
    OwnAccesses b t (setfreqBody b t freq).accesses := by
  have hclear : 0b00000111#8 &&& ~~~(ownedBits t .b) = 0 := csBits_owned 7 t
  unfold setfreqBody
  split <;> simpa [csBits_owned] using hclear

theorem ownAccesses_setdutyBody (b : BoardProfile) (t : Timer) (ch : Channel) (duty : BitVec 7) :
    OwnAccesses b t (setdutyBody b t ch duty).accesses := by
  unfold setdutyBody
  split
  · simp
  · next h =>
    have hle : duty.toNat ≤ 100 := Nat.le_of_not_gt h
    simpa [dutyValue_ofNat b t hle, -BitVec.toNat_ofNat] using dutyValue_le b t hle

theorem ownAccesses_setoutBody (b : BoardProfile) (t : Timer) (ch : Channel) (otype : BitVec 3) :
    OwnAccesses b t (setoutBody b t ch otype).accesses := by
  unfold setoutBody
  split
  · simp
  · simpa [comAccess, comBits_owned] using comBits_owned 3 t ch

theorem ownAccesses_whenImpl {b : BoardProfile} {t : Timer} {x : Body} (impl : Bool) (h : OwnAccesses b t x.accesses) :
    OwnAccesses b t (whenImpl impl x).accesses := by
  cases impl
  · exact ownAccesses_nil ..
  · exact h

/-! ### Answers -/

theorem resultLegal_raised (st : Status) : ResultLegal (resultWord (raised st)) := by cases st <;> decide

theorem resultLegal_owner (o : Timer × Channel) : ResultLegal (resultWord ⟨.ok, none, some o⟩) := by
  obtain ⟨t, ch⟩ := o
  cases t <;> cases ch <;> decide

theorem resultLegal_stage {st : Status} (k : Stage) (h : st ≠ .ok) : ResultLegal (resultWord ⟨st, some k, none⟩) := by
  cases k <;> cases st <;> first | exact absurd rfl h | decide

/-! ### Plans -/

/-- A plan the block may run (R24, R47, R53, R111): on a timer, accesses of its own after at most one request; on none,
no access; and a legal answer. -/
def PlanOk (b : BoardProfile) (p : Plan) : Prop :=
  ResultLegal (resultWord p.answer) ∧
    match p.timer with
    | none => p.accesses = []
    | some t => ∃ as, OwnAccesses b t as ∧ (p.accesses = as ∨ ∃ pin, p.accesses = .gpio pin :: as)

theorem planOk_reject (b : BoardProfile) (st : Status) : PlanOk b (rejectPlan st) := ⟨resultLegal_raised st, rfl⟩

theorem planOk_body {b : BoardProfile} {t : Timer} {x : Body} (h : OwnAccesses b t x.accesses) :
    PlanOk b (bodyPlan t x) := ⟨resultLegal_raised _, _, h, .inl rfl⟩

theorem planOk_planAt {b : BoardProfile} {pin : Pin} {f : Timer → Channel → Plan} (h : ∀ t ch, PlanOk b (f t ch)) :
    PlanOk b (planAt b pin f) := by
  cases hp : resolvePin b pin with
  | none => exact planAt_none f hp ▸ planOk_reject b _
  | some o => exact planAt_some f hp ▸ h o.1 o.2

/-- The parts of an APPLY hold only accesses their bodies hold, and answer legally (R53, R112). -/
theorem runParts_ok {b : BoardProfile} {t : Timer} (xs : List (Stage × Body))
    (h : ∀ x ∈ xs, OwnAccesses b t x.2.accesses) :
    OwnAccesses b t (runParts xs).1 ∧ ResultLegal (resultWord (runParts xs).2) := by
  induction xs with
  | nil => exact ⟨ownAccesses_nil .., resultLegal_raised .ok⟩
  | cons x xs ih =>
    obtain ⟨k, x⟩ := x
    have hx : OwnAccesses b t x.accesses := h _ List.mem_cons_self
    obtain ⟨hrest, hans⟩ := ih fun y hy => h y (List.mem_cons_of_mem _ hy)
    simp only [runParts]
    split
    · exact ⟨(ownAccesses_append ..).mpr ⟨hx, hrest⟩, hans⟩
    · next hst => exact ⟨hx, resultLegal_stage k hst⟩

theorem planOk_apply (b : BoardProfile) (pin : Pin) (mode setting otype : BitVec 3) (duty : BitVec 7) (freq : BitVec 5) :
    PlanOk b (applyPlan b pin mode setting otype duty freq) := by
  refine planOk_planAt fun t ch => ?_
  have hparts := runParts_ok (b := b) (t := t) (applyParts b t ch mode setting otype duty freq) (by
    simp [applyParts, ownAccesses_setadvBody, ownAccesses_setfreqBody, ownAccesses_setdutyBody, ownAccesses_setoutBody])
  split
  · exact ⟨hparts.2, _, hparts.1, .inr ⟨pin, rfl⟩⟩
  · exact ⟨resultLegal_raised _, [], ownAccesses_nil .., .inl rfl⟩

theorem planOk_resolve (b : BoardProfile) (pin : Pin) : PlanOk b (resolvePlan b pin) := by
  unfold resolvePlan
  split
  · exact planOk_reject ..
  · exact ⟨resultLegal_owner _, rfl⟩

/-- Every command's plan is one the block may run. -/
theorem planOk_planOf (b : BoardProfile) (i : Instr) : PlanOk b (planOf b i) := by
  cases i with
  | resolve pin => exact planOk_resolve ..
  | setmode pin mode =>
    exact planOk_planAt fun t _ => planOk_body (ownAccesses_whenImpl _ (ownAccesses_setmodeBody ..))
  | setadv pin mode setting =>
    exact planOk_planAt fun t _ => planOk_body (ownAccesses_whenImpl _ (ownAccesses_setadvBody ..))
  | setfreq pin freq =>
    exact planOk_planAt fun t _ => planOk_body (ownAccesses_whenImpl _ (ownAccesses_setfreqBody ..))
  | setduty pin duty => exact planOk_planAt fun t ch => planOk_body (ownAccesses_setdutyBody ..)
  | setout pin otype => exact planOk_planAt fun t ch => planOk_body (ownAccesses_setoutBody ..)
  | apply pin mode setting otype duty freq => exact planOk_apply ..
  | setphase ignored => exact planOk_reject ..
  | reserved word => exact planOk_reject ..

/-- A plan the block may run keeps every bit the block does not own (R24). -/
theorem performAll_plan_keepsUnowned {b : BoardProfile} {p : Plan} (x : Timers × List Event) (h : PlanOk b p) :
    KeepsUnowned x.1 (performAll b x p.accesses).1 := by
  obtain ⟨ot, as, ans⟩ := p
  rcases ot with _ | t
  · obtain rfl : as = [] := h.2
    exact KeepsUnowned.refl _
  · obtain ⟨-, own, hown, rfl | ⟨pin, rfl⟩⟩ := h
    · exact performAll_keepsUnowned _ x hown
    · exact performAll_keepsUnowned _ (perform b x (.gpio pin)) hown

/-- Settles O45: the plan of every command holds accesses within the owned bits alone. -/
theorem commandsKeepTheBitsTheyDoNotOwn : Obligations.CommandsKeepTheBitsTheyDoNotOwn := by
  intro i s s' h
  obtain ⟨-, rfl⟩ := runPlan_next _ _ _ ((exec_eq_runPlan i s).symm.trans h)
  exact performAll_plan_keepsUnowned (s.timers, []) (planOk_planOf s.board i)

end Sys2Proof.Machine
end

section
/-! The invariant of R16, R24, R47 and R53, one lemma for each kind of input, and the bits that read as zero. -/

namespace Sys2Proof.Machine

/-! ### What a command in progress may have before it -/

/-- The write that ends an RMW of a control register of `t`, keeping the bits the block does not own (R24, R47). -/
def EndsRmw (ts : Timers) (t : Timer) (a : Access) : Prop :=
  ∃ c v, a = .write ⟨t, .ctrl c⟩ v ∧ v.toNat < 256 ∧ v &&& ~~~((ownedBits t c).setWidth 16) = unownedPart ts t c

theorem endsRmw_write_ctrl (ts : Timers) (t u : Timer) (c : CtrlName) (v : Half) :
    EndsRmw ts t (.write ⟨u, .ctrl c⟩ v) ↔
      u = t ∧ v.toNat < 256 ∧ v &&& ~~~((ownedBits t c).setWidth 16) = unownedPart ts t c := by
  constructor
  · rintro ⟨d, w, heq, hlt, hw⟩
    cases heq
    exact ⟨rfl, hlt, hw⟩
  · rintro ⟨rfl, h⟩
    exact ⟨c, v, rfl, h⟩

/-- What stands before a command in progress: accesses of its own, behind a first one that may also be the request, where
no register access is made, or the write that ends an RMW, where one is. -/
theorem restOk_cons_iff (b : BoardProfile) (ts : Timers) (t : Timer) (touched : Bool) (a : Access) (as : List Access) :
    restOk b ts t touched (a :: as) = true ↔
      (planAccessOk b t a = true ∨ (touched = false ∧ ∃ pin, a = .gpio pin) ∨ (touched = true ∧ EndsRmw ts t a))
        ∧ OwnAccesses b t as := by
  cases a with
  | gpio pin => simp [restOk, EndsRmw, OwnAccesses]
  | rmw u c clr st => simp [restOk, EndsRmw, OwnAccesses]
  | write r v =>
    obtain ⟨u, c | ch⟩ := r
    · simp [restOk, endsRmw_write_ctrl, OwnAccesses, and_assoc]
    · simp [restOk, EndsRmw, OwnAccesses]

@[simp] theorem restOk_nil (b : BoardProfile) (ts : Timers) (t : Timer) (touched : Bool) :
    restOk b ts t touched [] = false := rfl

/-- Own accesses are fit to stand before a command at any time. -/
theorem restOk_of_own {b : BoardProfile} {t : Timer} {as : List Access} (ts : Timers) (touched : Bool)
    (h : OwnAccesses b t as) (hne : as ≠ []) : restOk b ts t touched as = true := by
  cases as with
  | nil => exact absurd rfl hne
  | cons a as =>
    obtain ⟨ha, has⟩ := (ownAccesses_cons ..).mp h
    exact (restOk_cons_iff ..).mpr ⟨.inl ha, has⟩

/-- The registers bear on what stands before a command by the unowned bits of its timer, and only once it has made an
access. -/
theorem restOk_of_registers {b : BoardProfile} {ts us : Timers} {t : Timer} {touched : Bool} {as : List Access}
    (hk : touched = true → ∀ c, unownedPart us t c = unownedPart ts t c) (h : restOk b ts t touched as = true) :
    restOk b us t touched as = true := by
  cases as with
  | nil => exact h
  | cons a as =>
    obtain ⟨ha, has⟩ := (restOk_cons_iff ..).mp h
    refine (restOk_cons_iff ..).mpr ⟨ha.imp_right (Or.imp_right ?_), has⟩
    rintro ⟨ht, c, v, ha, hlt, hv⟩
    exact ⟨ht, c, v, ha, hlt, hv.trans (hk ht c).symm⟩

/-! ### The invariant, timer by timer -/

theorem inFlightOk_iff (s : State) (t : Timer) :
    inFlightOk s t = true ↔ ∀ f, s.inFlight.get t = some f →
      restOk s.board s.timers t f.touched f.rest = true ∧ ResultLegal (resultWord f.answer) := by
  unfold inFlightOk
  split <;> rename_i h <;> simp only [h, Bool.and_eq_true, decide_eq_true_eq, Option.some.injEq]
  · simp
  · simp

theorem inv_iff (s : State) :
    Inv s ↔ TimersFit s.board s.timers ∧ ResultLegal s.result ∧ ∀ t, inFlightOk s t = true := by
  refine and_congr_right fun _ => and_congr_right fun _ => ⟨fun h t => ?_, fun h => ⟨h .t0, h .t1, h .t2⟩⟩
  obtain ⟨h0, h1, h2⟩ := h
  cases t <;> assumption

/-- A command in progress that stays, under the same profile, where the registers keep what it relies on. -/
theorem inFlightOk_of_same {s s' : State} {t : Timer} (h : inFlightOk s t = true) (hb : s'.board = s.board)
    (hf : s'.inFlight.get t = s.inFlight.get t)
    (hk : isMidway s t = true → ∀ c, unownedPart s'.timers t c = unownedPart s.timers t c) :
    inFlightOk s' t = true := by
  rw [inFlightOk_iff] at h ⊢
  intro f hget
  rw [hf] at hget
  obtain ⟨hrest, hans⟩ := h f hget
  rw [hb]
  exact ⟨restOk_of_registers (fun ht => hk (by simp [isMidway, hget, ht])) hrest, hans⟩

/-- The invariant after a change that keeps the unowned bits and touches the command in progress on `t` alone. -/
theorem inv_of_change_on {s s' : State} (t : Timer) (hinv : Inv s) (hb : s'.board = s.board)
    (hfit : TimersFit s.board s'.timers) (hres : ResultLegal s'.result) (hk : KeepsUnowned s.timers s'.timers)
    (hother : ∀ u, u ≠ t → s'.inFlight.get u = s.inFlight.get u) (ht : inFlightOk s' t = true) : Inv s' := by
  obtain ⟨-, -, hfl⟩ := (inv_iff s).mp hinv
  refine (inv_iff s').mpr ⟨hb ▸ hfit, hres, fun u => ?_⟩
  by_cases hu : u = t
  · exact hu ▸ ht
  · exact inFlightOk_of_same (hfl u) hb (hother u hu) fun _ => hk u

/-! ### A whole command, and the start of one -/

theorem runPlan_inv {p : Plan} {s s' : State} (hp : PlanOk s.board p) (hinv : Inv s) (h : runPlan p s = .next s') :
    Inv s' := by
  obtain ⟨hfit, -, hfl⟩ := (inv_iff s).mp hinv
  obtain ⟨-, rfl⟩ := runPlan_next _ _ _ h
  exact (inv_iff _).mpr ⟨timersFit_performAll _ _ hfit, hp.1, fun t =>
    inFlightOk_of_same (hfl t) rfl rfl fun _ => performAll_plan_keepsUnowned (s.timers, []) hp t⟩

/-- The accesses of a plan on a timer are fit to stand before a command that has made none. -/
theorem planOk_restOk {b : BoardProfile} {p : Plan} {t : Timer} (ts : Timers) (hp : PlanOk b p)
    (ht : p.timer = some t) (hne : p.accesses ≠ []) : restOk b ts t false p.accesses = true := by
  obtain ⟨-, hacc⟩ := hp
  rw [ht] at hacc
  obtain ⟨as, hown, heq | ⟨pin, heq⟩⟩ := hacc
  · exact restOk_of_own ts false (heq ▸ hown) hne
  · rw [heq]
    exact (restOk_cons_iff ..).mpr ⟨.inr (.inl ⟨rfl, pin, rfl⟩), hown⟩

theorem beginPlan_inv {p : Plan} {s s' : State} (hp : PlanOk s.board p) (hinv : Inv s)
    (h : beginPlan p s = .next s') : Inv s' := by
  rcases beginPlan_cases p s with ⟨-, h'⟩ | ⟨-, -, h'⟩ | ⟨t, a, as, ht, has, -, h'⟩
  · cases h'.symm.trans h
  · exact runPlan_inv hp hinv (h' ▸ h)
  · cases h'.symm.trans h
    obtain ⟨hfit, hres, -⟩ := (inv_iff s).mp hinv
    refine inv_of_change_on t hinv rfl hfit hres (KeepsUnowned.refl _) (fun u hu => perTimer_get_set_ne _ _ hu) ?_
    refine (inFlightOk_iff _ _).mpr fun f hf => ?_
    obtain rfl := Option.some.inj ((perTimer_get_set_same ..).symm.trans hf)
    exact ⟨has ▸ planOk_restOk s.timers hp ht (by simp [has]), hp.1⟩

/-! ### An access of a command in progress -/

theorem advance_eq_of_gpio {s : State} {t : Timer} {f : InFlight} {pin : Pin} {rest : List Access}
    (h : s.inFlight.get t = some f) (hr : f.rest = .gpio pin :: rest) :
    advanceCommand t s = afterAccess t f rest f.touched s.timers (f.trace ++ [.gpioOut pin]) s := by
  simp [advanceCommand, h, hr, perform]

theorem advance_eq_of_rmw {s : State} {t u : Timer} {f : InFlight} {c : CtrlName} {clr st : Byte} {rest : List Access}
    (h : s.inFlight.get t = some f) (hr : f.rest = .rmw u c clr st :: rest) :
    advanceCommand t s = afterAccess t f
      (.write ⟨u, .ctrl c⟩ (rmwValue (readReg s.timers ⟨u, .ctrl c⟩) clr st) :: rest) true s.timers f.trace s := by
  simp [advanceCommand, h, hr]

theorem advance_eq_of_write {s : State} {t : Timer} {f : InFlight} {r : Reg} {v : Half} {rest : List Access}
    (h : s.inFlight.get t = some f) (hr : f.rest = .write r v :: rest) :
    advanceCommand t s = afterAccess t f rest true (writeReg s.board s.timers r v) (f.trace ++ [.wrote r v]) s := by
  simp [advanceCommand, h, hr, perform]

/-- What an advance can do to a command in progress that the block can have begun: it makes one access, which keeps the
compare registers within their width and the unowned bits, and leaves it nothing or what it may have before it. -/
theorem advance_cases {s : State} {t : Timer} {f : InFlight} (hfit : TimersFit s.board s.timers)
    (hget : s.inFlight.get t = some f) (hok : restOk s.board s.timers t f.touched f.rest = true) :
    ∃ rest touched us tr, advanceCommand t s = afterAccess t f rest touched us tr s
      ∧ TimersFit s.board us ∧ KeepsUnowned s.timers us
      ∧ (rest ≠ [] → restOk s.board us t touched rest = true) := by
  rcases hr : f.rest with _ | ⟨a, as⟩ <;> rw [hr] at hok
  · simp at hok
  obtain ⟨ha, has⟩ := (restOk_cons_iff ..).mp hok
  cases a with
  | gpio pin =>
    exact ⟨_, _, _, _, advance_eq_of_gpio hget hr, hfit, KeepsUnowned.refl _, restOk_of_own _ _ has⟩
  | rmw u c clr st =>
    have ha : planAccessOk s.board t (.rmw u c clr st) = true := by simpa [EndsRmw] using ha
    obtain ⟨rfl, -, -⟩ := (planAccessOk_rmw ..).mp ha
    have hend : EndsRmw s.timers u (.write ⟨u, .ctrl c⟩ (rmwValue (readReg s.timers ⟨u, .ctrl c⟩) clr st)) :=
      ⟨c, _, rfl, rmwValue_lt .., rmwValue_readReg_unowned s.board s.timers ha⟩
    have hrest := (restOk_cons_iff s.board _ _ true _ as).mpr ⟨.inr (.inr ⟨rfl, hend⟩), has⟩
    exact ⟨_, _, _, _, advance_eq_of_rmw hget hr, hfit, KeepsUnowned.refl _, fun _ => hrest⟩
  | write r v =>
    refine ⟨_, _, _, _, advance_eq_of_write hget hr, timersFit_writeReg r v hfit, ?_, restOk_of_own _ _ has⟩
    rcases ha with ha | ⟨-, pin, hpin⟩ | ⟨-, c, w, heq, hlt, hw⟩
    · have hown := perform_keepsUnowned (s.timers, []) ha
      exact hown
    · cases hpin
    · cases heq
      exact keepsUnowned_write_ctrl s.board hlt hw

theorem afterAccess_inv {s : State} {t : Timer} {f : InFlight} {rest : List Access} {touched : Bool} {us : Timers}
    (tr : List Event) (hinv : Inv s) (hfit : TimersFit s.board us) (hk : KeepsUnowned s.timers us)
    (hans : ResultLegal (resultWord f.answer)) (hrest : rest ≠ [] → restOk s.board us t touched rest = true) :
    Inv (afterAccess t f rest touched us tr s) := by
  obtain ⟨-, hres, -⟩ := (inv_iff s).mp hinv
  have hother (u : Timer) (x : Option InFlight) (hu : u ≠ t) : (s.inFlight.set t x).get u = s.inFlight.get u :=
    perTimer_get_set_ne _ _ hu
  cases rest with
  | nil =>
    refine inv_of_change_on t hinv rfl hfit hans hk (hother · none) ?_
    simp [inFlightOk_iff, afterAccess]
  | cons a as =>
    refine inv_of_change_on t hinv rfl hfit hres hk (hother · _) ?_
    refine (inFlightOk_iff _ _).mpr fun g hg => ?_
    obtain rfl := Option.some.inj ((perTimer_get_set_same ..).symm.trans hg)
    exact ⟨hrest (by simp), hans⟩

theorem afterAccess_timers (t : Timer) (f : InFlight) (rest : List Access) (touched : Bool) (us : Timers)
    (tr : List Event) (s : State) : (afterAccess t f rest touched us tr s).timers = us := by
  cases rest <;> rfl

theorem advance_inv {s : State} (t : Timer) (hinv : Inv s) :
    Inv (advanceCommand t s) ∧ KeepsUnowned s.timers (advanceCommand t s).timers := by
  obtain ⟨hfit, -, hfl⟩ := (inv_iff s).mp hinv
  cases hget : s.inFlight.get t with
  | none => rw [advance_none hget]; exact ⟨hinv, KeepsUnowned.refl _⟩
  | some f =>
    obtain ⟨hok, hans⟩ := (inFlightOk_iff s t).mp (hfl t) f hget
    obtain ⟨rest, touched, us, tr, heq, hfit', hk, hrest⟩ := advance_cases hfit hget hok
    rw [heq, afterAccess_timers]
    exact ⟨afterAccess_inv tr hinv hfit' hk hans hrest, hk⟩

/-! ### An outside write -/

theorem foreignWrite_inv {r : Reg} {v : Half} {s s' : State} (hinv : Inv s) (h : foreignWrite r v s = .next s') :
    Inv s' := by
  obtain ⟨hfit, hres, hfl⟩ := (inv_iff s).mp hinv
  rcases foreignWrite_cases r v s with ⟨-, h'⟩ | ⟨hclash, h'⟩ <;> cases h'.symm.trans h
  refine (inv_iff _).mpr ⟨timersFit_writeReg _ _ hfit, hres, fun t => ?_⟩
  refine inFlightOk_of_same (hfl t) rfl rfl fun hmid c => ?_
  have hne : t ≠ r.timer := by
    rintro rfl
    simp [writeClashes, hmid] at hclash
  exact congrArg (· &&& _) (readReg_writeReg_ne _ _ _ (fun heq => hne (congrArg Reg.timer heq)))

theorem tempUse_next {t : Timer} {s s' : State} (h : tempUse t s = .next s') : s' = s := by
  unfold tempUse at h
  split at h <;> cases h
  rfl

/-- Every input keeps the invariant. -/
theorem takeInput_inv {x : Input} {s s' : State} (hinv : Inv s) (h : takeInput x s = .next s') : Inv s' := by
  cases x with
  | command w => exact runPlan_inv (planOk_planOf s.board _) hinv ((exec_eq_runPlan _ _).symm.trans h)
  | start w => exact beginPlan_inv (planOk_planOf s.board _) hinv h
  | advance t =>
    cases h
    exact (advance_inv t hinv).1
  | foreignWrite r v => exact foreignWrite_inv hinv h
  | tempUse t =>
    cases tempUse_next h
    exact hinv

/-- With no input waiting a step changes nothing. -/
theorem step_idle {s : State} (h : s.inputs = []) : step s = .next s := by
  simp [step, nextStep, h]

/-- A step that answers a next state takes the input that waits, or with none changes nothing. -/
theorem step_next_cases {s s' : State} (h : step s = .next s') :
    (s.inputs = [] ∧ s' = s) ∨
      ∃ x rest, s.inputs = x :: rest ∧ takeInput x { s with inputs := rest } = .next s' := by
  cases hin : s.inputs with
  | nil =>
    cases (step_idle hin).symm.trans h
    exact .inl ⟨rfl, rfl⟩
  | cons x rest => exact .inr ⟨x, rest, rfl, (step_cons hin).symm.trans h⟩

/-- Settles O43, by the kind of the input the step takes. -/
theorem everyStepKeepsTheInvariant : Obligations.EveryStepKeepsTheInvariant := by
  intro s s' hinv h
  rcases step_next_cases h with ⟨-, rfl⟩ | ⟨x, rest, -, hx⟩
  · exact hinv
  · exact takeInput_inv (s := { s with inputs := rest }) hinv hx

/-! ### The bits that read as zero -/

/-- The bits a control register holds are the same for every profile. -/
theorem heldBits_ctrl_uno (b : BoardProfile) (t : Timer) (c : CtrlName) :
    heldBits b ⟨t, .ctrl c⟩ = heldBits uno328p ⟨t, .ctrl c⟩ := by
  cases t <;> cases c <;> rfl

/-- A register keeps of an outside write exactly the bits it holds (R15, R17 to R19, R23). -/
theorem readReg_writeReg_held (b : BoardProfile) (ts : Timers) (r : Reg) (v : Half) :
    readReg (writeReg b ts r (v &&& heldBits b r)) r = v &&& heldBits b r := by
  obtain ⟨t, c | ch⟩ := r
  · have hbyte : (heldBits b ⟨t, .ctrl c⟩).toNat < 256 := by
      rw [heldBits_ctrl_uno]
      cases t <;> cases c <;> decide
    have hlt : (v &&& heldBits b ⟨t, .ctrl c⟩).toNat < 256 := Nat.lt_of_le_of_lt Nat.and_le_right hbyte
    rw [readReg_writeReg_same, heldValue, setWidth_byte_of_lt hlt]
  · have hmax : (heldBits b ⟨t, .ocr ch⟩).toNat = maxCount b t := by
      cases t <;> exact Nat.mod_eq_of_lt (maxCount_lt b _)
    have hle : (v &&& heldBits b ⟨t, .ocr ch⟩).toNat ≤ maxCount b t := hmax ▸ Nat.and_le_right
    rw [readReg_writeReg_same, heldValue, fitOcr_of_le b t _ hle]

theorem reservedZero_iff (b : BoardProfile) (ts : Timers) :
    ReservedZero b ts ↔ ∀ t c, readReg ts ⟨t, .ctrl c⟩ &&& ~~~(heldBits b ⟨t, .ctrl c⟩) = 0 :=
  ⟨fun h t c => h t (mem_allTimers t) c (by cases c <;> decide), fun h t _ c _ => h t c⟩

/-- The bits that read as zero are among those the block does not own (R17 to R19, R24). -/
theorem unheld_of_unownedPart (b : BoardProfile) (ts : Timers) (t : Timer) (c : CtrlName) :
    readReg ts ⟨t, .ctrl c⟩ &&& ~~~(heldBits b ⟨t, .ctrl c⟩) = unownedPart ts t c &&& ~~~(heldBits b ⟨t, .ctrl c⟩) := by
  have hsub : ~~~(heldBits b ⟨t, .ctrl c⟩) = ~~~((ownedBits t c).setWidth 16) &&& ~~~(heldBits b ⟨t, .ctrl c⟩) := by
    rw [heldBits_ctrl_uno]
    cases t <;> cases c <;> decide
  rw [unownedPart, BitVec.and_assoc, ← hsub]

theorem reservedZero_of_keepsUnowned {b : BoardProfile} {ts us : Timers} (hk : KeepsUnowned ts us)
    (h : ReservedZero b ts) : ReservedZero b us := by
  rw [reservedZero_iff] at h ⊢
  intro t c
  rw [unheld_of_unownedPart, hk t c, ← unheld_of_unownedPart, h t c]

theorem reservedZero_outside_write {b : BoardProfile} {ts : Timers} (r : Reg) (v : Half) (h : ReservedZero b ts) :
    ReservedZero b (writeReg b ts r (v &&& heldBits b r)) := by
  rw [reservedZero_iff] at h ⊢
  intro t c
  by_cases hr : (⟨t, .ctrl c⟩ : Reg) = r
  · subst hr
    rw [readReg_writeReg_held, BitVec.and_assoc]
    simp
  · rw [readReg_writeReg_ne b ts _ hr, h t c]

/-- What an input can do to the bits the block does not own: an outside write reaches its register, and nothing else
changes them (R24, R34). -/
theorem takeInput_unowned {x : Input} {s s' : State} (hinv : Inv s) (h : takeInput x s = .next s') :
    KeepsUnowned s.timers s'.timers ∨ ∃ r v, s'.timers = writeReg s.board s.timers r (v &&& heldBits s.board r) := by
  cases x with
  | command w => exact .inl (commandsKeepTheBitsTheyDoNotOwn _ s s' h)
  | start w =>
    rcases beginPlan_cases (planOf s.board (decode w)) s with ⟨-, h'⟩ | ⟨-, -, h'⟩ | ⟨t, a, as, -, -, -, h'⟩
    · cases h'.symm.trans h
    · have hexec : exec (decode w) s = .next s' := (exec_eq_runPlan _ s).trans (h'.symm.trans h)
      exact .inl (commandsKeepTheBitsTheyDoNotOwn _ s s' hexec)
    · cases h'.symm.trans h
      exact .inl (KeepsUnowned.refl _)
  | advance t =>
    cases h
    exact .inl (advance_inv t hinv).2
  | foreignWrite r v =>
    rcases foreignWrite_cases r v s with ⟨-, h'⟩ | ⟨-, h'⟩ <;> cases h'.symm.trans h
    exact .inr ⟨r, v, rfl⟩
  | tempUse t =>
    cases tempUse_next h
    exact .inl (KeepsUnowned.refl _)

/-- Settles O44: the bits that read as zero are not owned, so only an outside write reaches them, and it leaves zero. -/
theorem reservedBitsStayZero : Obligations.ReservedBitsStayZero := by
  intro s s' hinv hzero h
  rcases step_next_cases h with ⟨-, rfl⟩ | ⟨x, rest, -, hx⟩
  · exact hzero
  · have hboard : s'.board = s.board := (takeInput_board_inputs x _ s' hx).1
    rw [hboard]
    rcases takeInput_unowned (s := { s with inputs := rest }) hinv hx with hk | ⟨r, v, hts⟩
    · exact reservedZero_of_keepsUnowned hk hzero
    · exact hts ▸ reservedZero_outside_write r v hzero

end Sys2Proof.Machine
end

section
/-! What the bodies of the operations leave in WGM and CS (R79, R88, R109), and what UNO328P's patterns select there (R25
to R27). -/

namespace Sys2Proof.Machine

/-! ### The registers after a list of accesses -/

/-- The registers after accesses made one after the other (R44). -/
def regsAfter (b : BoardProfile) (ts : Timers) (as : List Access) : Timers := (performAll b (ts, []) as).1

@[simp] theorem regsAfter_nil (b : BoardProfile) (ts : Timers) : regsAfter b ts [] = ts := rfl

theorem performAll_regs (b : BoardProfile) (x : Timers × List Event) (as : List Access) :
    (performAll b x as).1 = regsAfter b x.1 as := by
  obtain ⟨ts, tr⟩ := x
  rw [performAll_trace, regsAfter]

theorem regsAfter_cons (b : BoardProfile) (ts : Timers) (a : Access) (as : List Access) :
    regsAfter b ts (a :: as) = regsAfter b (regsAfter b ts [a]) as :=
  performAll_regs b (perform b (ts, []) a) as

@[simp] theorem regsAfter_gpio (b : BoardProfile) (ts : Timers) (pin : Pin) (as : List Access) :
    regsAfter b ts (.gpio pin :: as) = regsAfter b ts as :=
  regsAfter_cons b ts (.gpio pin) as

@[simp] theorem regsAfter_append (b : BoardProfile) (ts : Timers) (as bs : List Access) :
    regsAfter b ts (as ++ bs) = regsAfter b (regsAfter b ts as) bs := by
  rw [regsAfter, performAll_append, performAll_regs]
  rfl

/-- An RMW that neither clears nor sets a bit leaves the registers as they are. -/
theorem regsAfter_rmw_zero (b : BoardProfile) (ts : Timers) (t : Timer) (c : CtrlName) :
    regsAfter b ts [.rmw t c 0 0] = ts := by
  have hkeep (x : Byte) : (x &&& ~~~0) ||| 0 = x := BitVec.or_zero.trans BitVec.and_allOnes
  cases c <;> simp only [regsAfter, performAll_cons, performAll_nil, perform_rmw_a, perform_rmw_b, hkeep]
  all_goals exact perTimer_set_get_self ts t

/-! ### WGM -/

theorem wgmField_regsAfter_wgm (b : BoardProfile) (ts : Timers) (t : Timer) (w : BitVec 4) :
    wgmField (regsAfter b ts (wgmAccesses t w)) t = w &&& wgmMask t :=
  (wgmAccesses_spec b ts t w).2.1

/-- An RMW left out because it changes no bit leaves the registers as making it would. -/
theorem regsAfter_ite_rmw (b : BoardProfile) (ts : Timers) (t : Timer) (c : CtrlName) {changed clr st : Byte}
    (h : changed = 0 → clr = 0 ∧ st = 0) :
    regsAfter b ts (if changed = 0 then [] else [.rmw t c clr st]) = regsAfter b ts [.rmw t c clr st] := by
  split
  · next h0 => rw [(h h0).1, (h h0).2, regsAfter_rmw_zero, regsAfter_nil]
  · rfl

/-- The two RMWs that clear and set bits of WGM in place, CTRL_A before CTRL_B (R20). -/
def wgmRmws (t : Timer) (clr st : BitVec 4) : List Access :=
  [.rmw t .a (loBits clr) (loBits st), .rmw t .b (hiBits t clr) (hiBits t st)]

theorem wgmField_regsAfter_wgmRmws (b : BoardProfile) (ts : Timers) (t : Timer) (clr st : BitVec 4) :
    wgmField (regsAfter b ts (wgmRmws t clr st)) t = ((wgmField ts t &&& ~~~clr) ||| st) &&& wgmMask t := by
  ext i hi
  cases t <;> interval_cases i <;>
    simp [wgmRmws, regsAfter, perform_rmw_a, perform_rmw_b, wgmField, wgmMask, hiBits, loBits]

/-- The overlay clears the bits only the base has and sets those only the refinement has; the RMWs it leaves out would
change no bit (R79). -/
theorem regsAfter_overlay (b : BoardProfile) (ts : Timers) (t : Timer) (base r : BitVec 4) :
    regsAfter b ts (overlayAccesses t base r) = regsAfter b ts (wgmRmws t (base &&& ~~~r) (r &&& ~~~base)) := by
  have hlo : ∀ x y : BitVec 4, loBits (x ||| y) = 0 → loBits y = 0 ∧ loBits x = 0 := by decide
  have hhi : ∀ x y : BitVec 4, hiBits t (x ||| y) = 0 → hiBits t y = 0 ∧ hiBits t x = 0 := by cases t <;> decide
  rw [overlayAccesses, regsAfter_append, regsAfter_ite_rmw b _ t .a (hlo _ _), regsAfter_ite_rmw b _ t .b (hhi _ _),
    ← regsAfter_append]
  rfl

/-- WGM after the overlay of `r` on the base pattern is `r` (R79). -/
theorem wgmField_regsAfter_overlay (b : BoardProfile) {ts : Timers} {t : Timer} {base : BitVec 4} (r : BitVec 4)
    (h : wgmField ts t = base &&& wgmMask t) :
    wgmField (regsAfter b ts (overlayAccesses t base r)) t = r &&& wgmMask t := by
  rw [regsAfter_overlay, wgmField_regsAfter_wgmRmws, h]
  ext i hi
  simp only [BitVec.getElem_and, BitVec.getElem_or, BitVec.getElem_not]
  cases base[i] <;> cases r[i] <;> simp

/-! ### The bodies -/

/-- The pattern SETADV leaves: the refinement, or the base pattern where the table has none (R79, R81). -/
def finalPattern (b : BoardProfile) (t : Timer) (m : WaveformMode) (a : AdvancedModeSetting) : BitVec 4 :=
  (refinement b t m a).getD (basePattern b t m)

/-- An accepted SETMODE leaves the base pattern of its mode (R74, R75). -/
theorem setmodeBody_ok {b : BoardProfile} (ts : Timers) {t : Timer} {mode : BitVec 3}
    (h : (setmodeBody b t mode).status = .ok) :
    ∃ m, wgmField (regsAfter b ts (setmodeBody b t mode).accesses) t = basePattern b t m &&& wgmMask t := by
  unfold setmodeBody at h ⊢
  split at h
  · cases h
  · exact ⟨_, wgmField_regsAfter_wgm ..⟩

/-- An accepted SETADV leaves the final pattern of its mode and setting (R79, R81). -/
theorem setadvBody_ok {b : BoardProfile} (ts : Timers) {t : Timer} {mode setting : BitVec 3}
    (h : (setadvBody b t mode setting).status = .ok) :
    ∃ m a, wgmField (regsAfter b ts (setadvBody b t mode setting).accesses) t = finalPattern b t m a &&& wgmMask t := by
  unfold setadvBody at h ⊢
  split at h
  · next m a _ _ =>
    refine ⟨m, a, ?_⟩
    rw [regsAfter_append, finalPattern]
    split
    · next hr => simp [hr, wgmField_regsAfter_wgm]
    · next r hr => simp [hr, wgmField_regsAfter_overlay b r (wgmField_regsAfter_wgm b ts t _)]
  · cases h

/-- An accepted SETFREQ leaves its choice's pattern in CS (R88, R91). -/
theorem setfreqBody_ok {b : BoardProfile} (ts : Timers) {t : Timer} {freq : BitVec 5}
    (h : (setfreqBody b t freq).status = .ok) :
    csPattern b t freq = some (csField (regsAfter b ts (setfreqBody b t freq).accesses) t)
      ∧ wgmField (regsAfter b ts (setfreqBody b t freq).accesses) t = wgmField ts t := by
  unfold setfreqBody at h ⊢
  split at h
  · cases h
  · next c hc =>
    obtain ⟨-, hcs1, -, hwgm1, -⟩ := csAccess_spec b ts t 7 0
    obtain ⟨-, hcs2, -, hwgm2, -⟩ := csAccess_spec b (regsAfter b ts [.rmw t .b 7 0]) t 0 c
    have clear : ∀ x : BitVec 3, (x &&& ~~~7) ||| 0 = 0 := by decide
    have write : ∀ x : BitVec 3, (0 &&& ~~~0) ||| x = x := by decide
    have hclear : csField (regsAfter b ts [.rmw t .b 7 0]) t = 0 := hcs1.trans (clear _)
    rw [hclear, write] at hcs2
    rw [regsAfter_cons]
    exact ⟨hc.trans (congrArg some hcs2.symm), hwgm2.trans hwgm1⟩

/-- SETDUTY leaves WGM and CS alone (R98). -/
theorem setdutyBody_keeps (b : BoardProfile) (ts : Timers) (t : Timer) (ch : Channel) (duty : BitVec 7) :
    wgmField (regsAfter b ts (setdutyBody b t ch duty).accesses) t = wgmField ts t
      ∧ csField (regsAfter b ts (setdutyBody b t ch duty).accesses) t = csField ts t := by
  unfold setdutyBody
  split
  · exact ⟨rfl, rfl⟩
  · next h =>
    have hle : duty.toNat ≤ 100 := Nat.le_of_not_gt h
    have hfits : (BitVec.ofNat 16 (dutyValue b t duty.toNat)).toNat ≤ maxCount b t :=
      (dutyValue_ofNat b t hle).trans_le (dutyValue_le b t hle)
    obtain ⟨-, -, hwgm, hcs, -⟩ := ocrWrite_spec b ts t ch _ hfits
    exact ⟨hwgm, hcs⟩

/-- SETOUT leaves WGM and CS alone (R106). -/
theorem setoutBody_keeps (b : BoardProfile) (ts : Timers) (t : Timer) (ch : Channel) (otype : BitVec 3) :
    wgmField (regsAfter b ts (setoutBody b t ch otype).accesses) t = wgmField ts t
      ∧ csField (regsAfter b ts (setoutBody b t ch otype).accesses) t = csField ts t := by
  unfold setoutBody
  split
  · exact ⟨rfl, rfl⟩
  · obtain ⟨-, -, -, hwgm, hcs, -⟩ := comAccess_spec b ts t ch (comPattern b t ch _)
    exact ⟨hwgm, hcs⟩

/-! ### Accepted commands -/

theorem resultWord_raised_eq_zero {st : Status} (h : resultWord (raised st) = 0) : st = .ok := by
  cases st <;> first | rfl | exact absurd h (by decide)

theorem resultWord_stage_ne_zero (st : Status) (k : Stage) : resultWord ⟨st, some k, none⟩ ≠ 0 := by
  cases st <;> cases k <;> decide

theorem whenImpl_ok {impl : Bool} {x : Body} (h : (whenImpl impl x).status = .ok) :
    whenImpl impl x = x ∧ x.status = .ok := by
  cases impl
  · cases h
  · exact ⟨rfl, h⟩

/-- An accepted command of one body: the body ended OK, and the registers are those after its accesses. -/
theorem accepted_body {s s' : State} {t : Timer} {x : Body} (h : runPlan (bodyPlan t x) s = .next s')
    (h0 : s'.result = 0) : x.status = .ok ∧ s'.timers = regsAfter s.board s.timers x.accesses := by
  obtain ⟨-, rfl⟩ := runPlan_next _ _ _ h
  exact ⟨resultWord_raised_eq_zero h0, rfl⟩

/-- Parts that answer OK have all ended OK, and made all their accesses (R110). -/
theorem runParts_accepted {xs : List (Stage × Body)} (h : resultWord (runParts xs).2 = 0) :
    (∀ x ∈ xs, x.2.status = .ok) ∧ (runParts xs).1 = xs.flatMap (·.2.accesses) := by
  induction xs with
  | nil => simp [runParts]
  | cons x xs ih =>
    obtain ⟨k, x⟩ := x
    simp only [runParts] at h ⊢
    split at h
    · next hst =>
      obtain ⟨hall, hacc⟩ := ih h
      exact ⟨List.forall_mem_cons.mpr ⟨hst, hall⟩, by simp [hst, hacc]⟩
    · exact absurd h (resultWord_stage_ne_zero _ k)

/-- What an accepted APPLY has done: all four parts ended OK, and the registers are those after their accesses. -/
theorem accepted_apply {s s' : State} {pin : Pin} {mode setting otype : BitVec 3} {p : BitVec 7} {freq : BitVec 5}
    {t : Timer} {ch : Channel} (hpin : resolvePin s.board pin = some (t, ch))
    (h : exec (.apply pin mode setting otype p freq) s = .next s') (h0 : s'.result = 0) :
    (∀ x ∈ applyParts s.board t ch mode setting otype p freq, x.2.status = .ok) ∧
      s'.timers = regsAfter s.board s.timers
        ((applyParts s.board t ch mode setting otype p freq).flatMap (·.2.accesses)) := by
  rw [exec_eq_runPlan, planOf, applyPlan, planAt_some _ hpin] at h
  split at h <;> obtain ⟨-, rfl⟩ := runPlan_next _ _ _ h
  · obtain ⟨hall, hacc⟩ := runParts_accepted h0
    exact ⟨hall, hacc ▸ regsAfter_gpio s.board s.timers pin _⟩
  · cases resultWord_raised_eq_zero h0

/-- An accepted APPLY leaves WGM as its SETADV part does and CS as its SETFREQ part does (R109). -/
theorem accepted_apply_fields {s s' : State} {pin : Pin} {mode setting otype : BitVec 3} {p : BitVec 7}
    {freq : BitVec 5} {t : Timer} {ch : Channel} (hpin : resolvePin s.board pin = some (t, ch))
    (h : exec (.apply pin mode setting otype p freq) s = .next s') (h0 : s'.result = 0) :
    (∃ m a, wgmField s'.timers t = finalPattern s.board t m a &&& wgmMask t)
      ∧ csPattern s.board t freq = some (csField s'.timers t) := by
  obtain ⟨hall, hts⟩ := accepted_apply hpin h h0
  simp only [applyParts, List.mem_cons, List.not_mem_nil, or_false, forall_eq_or_imp, forall_eq, List.flatMap_cons,
    List.flatMap_nil, List.append_nil, regsAfter_append] at hall hts
  obtain ⟨hadv, hfreq, -, -⟩ := hall
  obtain ⟨hcs, hwgm⟩ := setfreqBody_ok (regsAfter s.board s.timers (setadvBody s.board t mode setting).accesses) hfreq
  rw [hts, (setoutBody_keeps ..).1, (setoutBody_keeps ..).2, (setdutyBody_keeps ..).1, (setdutyBody_keeps ..).2, hwgm]
  exact ⟨setadvBody_ok s.timers hadv, hcs⟩

/-! ### UNO328P -/

/-- Each base pattern of UNO328P selects its mode (R25, R26, R76, R77). -/
theorem uno_base_meaning (t : Timer) (m : WaveformMode) (w : BitVec 4) (h : (uno328p.modeTable.get t).get m = some w) :
    ∃ top, wgmMeaning t w = some (countModeOf m, top) := by
  cases t <;> cases m <;> cases h <;> exact ⟨_, rfl⟩

/-- Each refinement of UNO328P selects its mode with the TOP of its setting (R25, R26, R82, R83). -/
theorem uno_refinement_meaning (t : Timer) (m : WaveformMode) (a : AdvancedModeSetting) (r : BitVec 4)
    (h : refinement uno328p t m a = some r) : wgmMeaning t r = some (countModeOf m, topOf a) := by
  cases t <;> cases m <;> cases a <;> cases h <;> rfl

/-- Settles O55, table row by table row. -/
theorem unoPatternsSelectTheNamedModes : Obligations.UnoPatternsSelectTheNamedModes :=
  fun t m a => ⟨uno_base_meaning t m, uno_refinement_meaning t m a⟩

/-- Every pattern of UNO328P has its place in WGM whole (R20). -/
theorem uno_wgm_fits (t : Timer) (m : WaveformMode) (a : AdvancedModeSetting) :
    basePattern uno328p t m &&& wgmMask t = basePattern uno328p t m
      ∧ finalPattern uno328p t m a &&& wgmMask t = finalPattern uno328p t m a := by
  cases t <;> cases m <;> cases a <;> decide

/-- No base pattern is reserved: a mode the table lacks gets the pattern 0, which is Normal (R25, R26, R75). -/
theorem uno_base_not_reserved (t : Timer) (m : WaveformMode) : wgmMeaning t (basePattern uno328p t m) ≠ none := by
  unfold basePattern
  cases h : (uno328p.modeTable.get t).get m with
  | none => cases t <;> decide
  | some w =>
    obtain ⟨top, hw⟩ := uno_base_meaning t m w h
    simp [hw]

theorem uno_final_not_reserved (t : Timer) (m : WaveformMode) (a : AdvancedModeSetting) :
    wgmMeaning t (finalPattern uno328p t m a) ≠ none := by
  unfold finalPattern
  cases h : refinement uno328p t m a with
  | none => exact uno_base_not_reserved t m
  | some r => simp [uno_refinement_meaning t m a r h]

/-- Each clock choice of UNO328P divides the clock (R27, R90). -/
theorem uno_cs_divided (t : Timer) (freq : BitVec 5) (c : BitVec 3) (h : csPattern uno328p t freq = some c) :
    ∃ n, csMeaning t c = .divided n := by
  obtain ⟨f, -, hf⟩ := Option.bind_eq_some_iff.mp h
  cases t <;> cases f <;> cases hf <;> exact ⟨_, rfl⟩

/-- Settles O56: accepted commands leave only patterns of UNO328P's tables, and none of these is reserved, stopped or
external. -/
theorem unoNeverSelectsAReservedModeOrOutsideClock : Obligations.UnoNeverSelectsAReservedModeOrOutsideClock := by
  intro s s' pin mode setting otype p freq t ch hb hpin h0
  rw [← hb] at hpin
  constructor
  · rintro (h | h | h)
    · rw [exec_eq_runPlan, planOf, setmodePlan, planAt_some _ hpin] at h
      obtain ⟨hst, hts⟩ := accepted_body h h0
      obtain ⟨himpl, hst⟩ := whenImpl_ok hst
      obtain ⟨m, hw⟩ := setmodeBody_ok s.timers hst
      rw [hts, himpl, hw, hb, (uno_wgm_fits t m .bits8).1]
      exact uno_base_not_reserved t m
    · rw [exec_eq_runPlan, planOf, setadvPlan, planAt_some _ hpin] at h
      obtain ⟨hst, hts⟩ := accepted_body h h0
      obtain ⟨himpl, hst⟩ := whenImpl_ok hst
      obtain ⟨m, a, hw⟩ := setadvBody_ok s.timers hst
      rw [hts, himpl, hw, hb, (uno_wgm_fits t m a).2]
      exact uno_final_not_reserved t m a
    · obtain ⟨⟨m, a, hw⟩, -⟩ := accepted_apply_fields hpin h h0
      rw [hw, hb, (uno_wgm_fits t m a).2]
      exact uno_final_not_reserved t m a
  · rintro (h | h)
    · rw [exec_eq_runPlan, planOf, setfreqPlan, planAt_some _ hpin] at h
      obtain ⟨hst, hts⟩ := accepted_body h h0
      obtain ⟨himpl, hst⟩ := whenImpl_ok hst
      rw [hts, himpl]
      exact uno_cs_divided t freq _ (hb ▸ (setfreqBody_ok s.timers hst).1)
    · exact uno_cs_divided t freq _ (hb ▸ (accepted_apply_fields hpin h h0).2)

end Sys2Proof.Machine
end

section
/-! The decoder's way to a step (R31, R55, R64), the idle step, the reset state (R35, R36) and outside writes (R34). -/

namespace Sys2Proof.Machine

/-! ### The rows of the opcode table as bit ranges -/

/-- A test against a mask made of whole bit ranges is a test of those ranges (R55). -/
theorem and_mask_eq_iff (w mask value : Word) (ranges : List (Nat × Nat))
    (hmask : ∀ i < 32, mask.getLsbD i = ranges.any fun r => decide (r.1 ≤ i ∧ i < r.1 + r.2))
    (hvalue : value &&& mask = value) :
    w &&& mask = value ↔ ∀ r ∈ ranges, w.extractLsb' r.1 r.2 = value.extractLsb' r.1 r.2 := by
  constructor
  · rintro h r hr
    ext i hi
    by_cases hlt : r.1 + i < 32
    · have hset : mask.getLsbD (r.1 + i) = true := by
        rw [hmask _ hlt]
        exact List.any_eq_true.mpr ⟨r, hr, by simp [hi]⟩
      simp [← h, hset]
    · simp [BitVec.getLsbD_of_ge _ _ (Nat.le_of_not_lt hlt)]
  · intro h
    rw [← hvalue]
    ext i hi
    cases hset : mask.getLsbD i with
    | false => simp [← BitVec.getLsbD_eq_getElem hi, hset]
    | true =>
      rw [hmask i hi] at hset
      obtain ⟨r, hr, hin⟩ := List.any_eq_true.mp hset
      obtain ⟨hle, hlt⟩ := of_decide_eq_true hin
      have hbit := congrArg (·.getLsbD (i - r.1)) (h r hr)
      simp only [BitVec.getLsbD_extractLsb', Nat.add_sub_cancel' hle] at hbit
      have hn : i - r.1 < r.2 := by omega
      simp [hn] at hbit
      simp [← BitVec.getLsbD_eq_getElem hi, hbit]

/-- The tests of R55's rows RESOLVE to SETPHASE are those of the decoder's lines (R64). -/
theorem selectsNamedRow_iff (w : Word) : selectsNamedRow w = true ↔
    (opField w = 0 ∧ w.extractLsb' 0 21 = 0) ∨ (opField w = 1 ∧ w.extractLsb' 3 18 = 0)
      ∨ (opField w = 2 ∧ w.extractLsb' 6 15 = 0) ∨ (opField w = 3 ∧ w.extractLsb' 0 16 = 0)
      ∨ (opField w = 4 ∧ w.extractLsb' 16 5 = 0 ∧ w.extractLsb' 0 9 = 0)
      ∨ (opField w = 5 ∧ w.extractLsb' 9 12 = 0 ∧ w.extractLsb' 0 6 = 0) ∨ opField w = 6 ∨ opField w = 7 := by
  have resolveRow := and_mask_eq_iff w 0xF01FFFFF#32 0x00000000#32 [(28, 4), (0, 21)] (by decide) (by decide)
  have setmodeRow := and_mask_eq_iff w 0xF01FFFF8#32 0x10000000#32 [(28, 4), (3, 18)] (by decide) (by decide)
  have setadvRow := and_mask_eq_iff w 0xF01FFFC0#32 0x20000000#32 [(28, 4), (6, 15)] (by decide) (by decide)
  have setfreqRow := and_mask_eq_iff w 0xF000FFFF#32 0x30000000#32 [(28, 4), (0, 16)] (by decide) (by decide)
  have setdutyRow := and_mask_eq_iff w 0xF01F01FF#32 0x40000000#32 [(28, 4), (16, 5), (0, 9)] (by decide) (by decide)
  have setoutRow := and_mask_eq_iff w 0xF01FFE3F#32 0x50000000#32 [(28, 4), (9, 12), (0, 6)] (by decide) (by decide)
  have applyRow := and_mask_eq_iff w 0xF0000000#32 0x60000000#32 [(28, 4)] (by decide) (by decide)
  have setphaseRow := and_mask_eq_iff w 0xF0000000#32 0x70000000#32 [(28, 4)] (by decide) (by decide)
  simp only [selectsNamedRow, Bool.or_eq_true, beq_iff_eq, resolveRow, setmodeRow, setadvRow, setfreqRow, setdutyRow,
    setoutRow, applyRow, setphaseRow, or_assoc, List.mem_cons, List.not_mem_nil, or_false, forall_eq_or_imp, forall_eq]
  rfl

/-- Every word decodes to a well-formed command (R55, R63). -/
theorem wellFormed_decode (w : Word) : (decode w).wellFormed = true := by
  unfold decode
  repeat' split
  case isFalse =>
    have hnot : ¬ selectsNamedRow w = true := by
      rw [selectsNamedRow_iff]
      simp only [*, or_self, not_false_eq_true]
    simpa [Instr.wellFormed] using hnot
  all_goals rfl

/-- A word no named row selects is RESERVED (R63). -/
theorem decode_of_not_selected {w : Word} (h : selectsNamedRow w = false) : decode w = .reserved w := by
  rw [← Bool.not_eq_true, selectsNamedRow_iff] at h
  simp only [not_or] at h
  obtain ⟨h0, h1, h2, h3, h4, h5, h6, h7⟩ := h
  simp only [decode, h0, h1, h2, h3, h4, h5, h6, h7, if_false]

/-! ### The decoder on an encoded command -/

/-- A range of bits is zero where its two parts are. -/
theorem extractLsb'_add_eq_zero_iff (w : Word) (s k n : Nat) :
    w.extractLsb' s (k + n) = 0#(k + n) ↔ w.extractLsb' s k = 0#k ∧ w.extractLsb' (s + k) n = 0#n := by
  simp only [BitVec.eq_of_getLsbD_eq_iff, BitVec.getLsbD_extractLsb', BitVec.getLsbD_zero]
  constructor
  · intro h
    refine ⟨fun i hi => ?_, fun i hi => ?_⟩
    · simpa [hi, Nat.lt_add_right n hi] using h i
    · simpa [hi, Nat.add_assoc] using h (k + i)
  · rintro ⟨hlow, hhigh⟩ i hi
    by_cases hik : i < k
    · simpa [hi, hik] using hlow i hik
    · have hn : i - k < n := by omega
      have hs : s + k + (i - k) = s + i := by omega
      simpa [hi, hn, hs] using hhigh (i - k) hn

/-- The bits R55 wants zero, row by row, are whole fields (R51, R55). -/
theorem zero_bits_iff (w : Word) :
    (w.extractLsb' 9 12 = 0#12 ↔ dutyField w = 0 ∧ freqField w = 0)
      ∧ (w.extractLsb' 6 15 = 0#15 ↔ otypeField w = 0 ∧ dutyField w = 0 ∧ freqField w = 0)
      ∧ (w.extractLsb' 3 18 = 0#18 ↔ settingField w = 0 ∧ otypeField w = 0 ∧ dutyField w = 0 ∧ freqField w = 0)
      ∧ (w.extractLsb' 0 21 = 0#21 ↔
          modeField w = 0 ∧ settingField w = 0 ∧ otypeField w = 0 ∧ dutyField w = 0 ∧ freqField w = 0)
      ∧ (w.extractLsb' 0 6 = 0#6 ↔ modeField w = 0 ∧ settingField w = 0)
      ∧ (w.extractLsb' 0 9 = 0#9 ↔ modeField w = 0 ∧ settingField w = 0 ∧ otypeField w = 0)
      ∧ (w.extractLsb' 0 16 = 0#16 ↔ modeField w = 0 ∧ settingField w = 0 ∧ otypeField w = 0 ∧ dutyField w = 0)
      ∧ (w.extractLsb' 16 5 = 0#5 ↔ freqField w = 0) := by
  have parts := extractLsb'_add_eq_zero_iff w
  have dutyFreq := parts 9 7 5
  have otypeUp := (parts 6 3 12).trans (and_congr_right' dutyFreq)
  have settingUp := (parts 3 3 15).trans (and_congr_right' otypeUp)
  have settingDuty := (parts 3 3 10).trans (and_congr_right' (parts 6 3 7))
  exact ⟨dutyFreq, otypeUp, settingUp, (parts 0 3 18).trans (and_congr_right' settingUp), parts 0 3 3,
    (parts 0 3 6).trans (and_congr_right' (parts 3 3 3)), (parts 0 3 13).trans (and_congr_right' settingDuty), Iff.rfl⟩

section
variable (op : BitVec 4) (pin : Pin) (freq : BitVec 5) (duty : BitVec 7) (o a m : BitVec 3)

/-- The fields of a packed word (R51, R52). -/
theorem fields_packWord :
    opField (packWord op pin freq duty o a m) = op ∧ pinField (packWord op pin freq duty o a m) = pin
      ∧ freqField (packWord op pin freq duty o a m) = freq ∧ dutyField (packWord op pin freq duty o a m) = duty
      ∧ otypeField (packWord op pin freq duty o a m) = o ∧ settingField (packWord op pin freq duty o a m) = a
      ∧ modeField (packWord op pin freq duty o a m) = m := by
  refine ⟨Sys2Proof.Laws.OpField.opField_packWord .., ?_, ?_, ?_, ?_, ?_, ?_⟩ <;> ext i hi <;> interval_cases i <;>
    simp [packWord, pinField, freqField, dutyField, otypeField, settingField, modeField]

end

/-- Decoding undoes encoding (R51, R55, R64). -/
theorem decode_encode (i : Instr) (h : i.wellFormed = true) : decode (encode i) = i := by
  cases i with
  | resolve pin => simp [decode, encode, fields_packWord, zero_bits_iff]
  | setmode pin mode => simp [decode, encode, fields_packWord, zero_bits_iff]
  | setadv pin mode setting => simp [decode, encode, fields_packWord, zero_bits_iff]
  | setfreq pin freq => simp [decode, encode, fields_packWord, zero_bits_iff]
  | setduty pin duty => simp [decode, encode, fields_packWord, zero_bits_iff]
  | setout pin otype => simp [decode, encode, fields_packWord, zero_bits_iff]
  | apply pin mode setting otype duty freq => simp [decode, encode, fields_packWord]
  | setphase ignored =>
    have hop : opField (encode (.setphase ignored)) = 7 := Sys2Proof.Laws.OpField.setphase ignored
    have hrest : (encode (.setphase ignored)).extractLsb' 0 28 = ignored := by
      ext i hi
      interval_cases i <;> simp [encode]
    simp [decode, hop, hrest]
  | reserved w =>
    have hnot : selectsNamedRow w = false := by simpa [Instr.wellFormed] using h
    exact decode_of_not_selected hnot

/-! ### Steps -/

/-- Settles O6: the step takes the word and runs what it decodes to, which for an encoded command is the command. -/
theorem stepRunsTheIssuedCommand : Obligations.StepRunsTheIssuedCommand :=
  ⟨fun _ w _ hin => ⟨wellFormed_decode w, step_cons hin⟩,
    fun s i hwf => (step_issue _ s).trans (congrArg (exec · s) (decode_encode i hwf))⟩

/-- Settles O7: a step is the taking of an input. -/
theorem idleStepChangesNothing : Obligations.IdleStepChangesNothing := fun _ h => step_idle h

/-! ### Reset -/

/-- Settles O41, register by register and timer by timer. -/
theorem resetClearsTheRegisters : Obligations.ResetClearsTheRegisters := by
  refine ⟨?registers, rfl, rfl, ?fields, rfl, fun _ _ _ => rfl⟩
  case registers =>
    rintro ⟨t, ⟨_ | _⟩ | ⟨_ | _⟩⟩ <;> cases t <;> rfl
  case fields =>
    intro t
    refine ⟨?_, ?_, fun ch => ?_⟩
    · cases t <;> decide
    · cases t <;> decide
    · cases t <;> cases ch <;> decide

/-- Settles O42: the one closed state, by evaluation. -/
theorem resetMeetsTheInvariant : Obligations.ResetMeetsTheInvariant := by
  refine ⟨?inv, ?reserved⟩
  case inv => decide
  case reserved => decide

/-! ### Outside writes -/

/-- A write to a timer no command is midway on does not clash, but for one that uses the temporary register while a
compare write is pending (R41, R49). -/
theorem writeClashes_eq_false {s : State} {r : Reg} (hmid : isMidway s r.timer = false)
    (hpending : compareWritePending s r.timer = true → s.board.width.get r.timer = .w16 → ∃ c, r.name = .ctrl c) :
    writeClashes s r = false := by
  obtain ⟨t, c | ch⟩ := r
  · rwa [writeClashes_ctrl]
  · cases hp : compareWritePending s t with
    | false => simp [writeClashes, hmid, hp]
    | true =>
      have hwidth : s.board.width.get t ≠ .w16 := fun hw => by
        obtain ⟨c, hc⟩ := hpending hp hw
        cases hc
      simp [writeClashes, hmid, usesTemp, hwidth]

/-- Settles O50: a write that does not clash is one register write, of the bits the register holds. -/
theorem outsideWriteReachesItsRegisterAlone : Obligations.OutsideWriteReachesItsRegisterAlone := by
  intro s r v rest hmid hpending hin
  have hfree : writeClashes { s with inputs := rest } r = false := writeClashes_eq_false (s := s) hmid hpending
  refine ⟨_, (step_cons hin).trans ?_, readReg_writeReg_held s.board s.timers r v,
    fun q hq => readReg_writeReg_ne _ _ _ hq⟩
  rcases foreignWrite_cases r v { s with inputs := rest } with ⟨hclash, -⟩ | ⟨-, hwrite⟩
  · rw [hfree] at hclash
    cases hclash
  · exact hwrite

end Sys2Proof.Machine
end

section
/-! When a command clashes with one in progress (R49), and the outside uses of a timer that fault (R41, R49, R139). -/

namespace Sys2Proof.Machine

/-! ### The timer a command is on -/

theorem planAt_timer {b : BoardProfile} (pin : Pin) {f : Timer → Channel → Plan} (h : ∀ t ch, (f t ch).timer = some t) :
    (planAt b pin f).timer = (resolvePin b pin).map Prod.fst := by
  cases hp : resolvePin b pin with
  | none => rw [planAt_none f hp]; rfl
  | some o => rw [planAt_some f hp, h]; rfl

theorem applyPlan_timer (b : BoardProfile) (pin : Pin) (mode setting otype : BitVec 3) (duty : BitVec 7)
    (freq : BitVec 5) :
    (applyPlan b pin mode setting otype duty freq).timer = (resolvePin b pin).map Prod.fst :=
  planAt_timer pin fun t ch => by split <;> rfl

theorem resolvePlan_timer (b : BoardProfile) (pin : Pin) : (resolvePlan b pin).timer = none := by
  unfold resolvePlan
  split <;> rfl

/-- A command is on the timer of its pin; one with no such pin is on none (R70, R71, R113, R114). -/
theorem planOf_timer (b : BoardProfile) (i : Instr) :
    (planOf b i).timer = (timerPin i).bind fun pin => (resolvePin b pin).map Prod.fst := by
  cases i with
  | resolve pin => exact resolvePlan_timer b pin
  | setmode pin mode => exact planAt_timer pin fun _ _ => rfl
  | setadv pin mode setting => exact planAt_timer pin fun _ _ => rfl
  | setfreq pin freq => exact planAt_timer pin fun _ _ => rfl
  | setduty pin duty => exact planAt_timer pin fun _ _ => rfl
  | setout pin otype => exact planAt_timer pin fun _ _ => rfl
  | apply pin mode setting otype duty freq => exact applyPlan_timer ..
  | setphase ignored => rfl
  | reserved word => rfl

theorem planOf_timer_eq {b : BoardProfile} {i : Instr} {pin : Pin} {t : Timer} {ch : Channel}
    (hpin : timerPin i = some pin) (hres : resolvePin b pin = some (t, ch)) : (planOf b i).timer = some t := by
  simp [planOf_timer, hpin, hres]

@[simp] theorem clashes_none (s : State) : clashes s none = false := rfl

@[simp] theorem clashes_some (s : State) (t : Timer) : clashes s (some t) = isBusy s t := rfl

theorem clashes_iff (s : State) (ot : Option Timer) : clashes s ot = true ↔ ∃ t, ot = some t ∧ isBusy s t = true := by
  cases ot <;> simp

/-- A command clashes where its pin's timer has a command in progress (R49). -/
theorem clashes_planOf_iff (s : State) (i : Instr) :
    clashes s (planOf s.board i).timer = true ↔
      ∃ pin t ch, timerPin i = some pin ∧ resolvePin s.board pin = some (t, ch) ∧ isBusy s t = true := by
  rw [clashes_iff, planOf_timer]
  constructor
  · rintro ⟨t, ht, hbusy⟩
    obtain ⟨pin, hpin, hmap⟩ := Option.bind_eq_some_iff.mp ht
    obtain ⟨⟨u, ch⟩, hres, rfl⟩ := Option.map_eq_some_iff.mp hmap
    exact ⟨pin, u, ch, hpin, hres, hbusy⟩
  · rintro ⟨pin, t, ch, hpin, hres, hbusy⟩
    exact ⟨t, by simp [hpin, hres], hbusy⟩

/-- Settles O48: running a plan faults exactly where it clashes. -/
theorem commandFaultsExactlyOnABusyTimer : Obligations.CommandFaultsExactlyOnABusyTimer := by
  intro i s
  rw [← clashes_planOf_iff, exec_eq_runPlan]
  rcases runPlan_cases (planOf s.board i) s with ⟨hclash, hrun⟩ | ⟨hfree, hrun⟩
  · exact ⟨fun _ => hrun, fun h => absurd hclash h⟩
  · exact ⟨fun h => by simp [hfree] at h, fun _ => ⟨_, hrun⟩⟩

/-! ### Faults of a run -/

theorem beginPlan_fault {p : Plan} {s : State} (h : clashes s p.timer = true) :
    beginPlan p s = .fault .concurrentAccess := by
  simp [beginPlan, h]

theorem foreignWrite_fault {s : State} {r : Reg} (v : Half) (h : writeClashes s r = true) :
    foreignWrite r v s = .fault .concurrentAccess := by
  simp [foreignWrite, h]

theorem writeClashes_of_midway {s : State} {r : Reg} (h : isMidway s r.timer = true) : writeClashes s r = true := by
  simp [writeClashes, h]

/-- Settles O49: the first step takes the input that overlaps, and faults. -/
theorem overlappingUseOfATimerFaultsTheRun : Obligations.OverlappingUseOfATimerFaultsTheRun := by
  refine ⟨?begun, ?written⟩
  case begun =>
    intro s w rest pin t ch hpin hres hbusy hin k
    have hclash : ∃ pin t ch, timerPin (decode w) = some pin ∧ resolvePin s.board pin = some (t, ch)
        ∧ isBusy s t = true := ⟨pin, t, ch, hpin, hres, hbusy⟩
    refine run_succ_fault k ?_
    rcases hin with hin | hin <;> rw [step_cons hin]
    · exact beginPlan_fault ((clashes_planOf_iff { s with inputs := rest } _).mpr hclash)
    · exact (commandFaultsExactlyOnABusyTimer _ { s with inputs := rest }).1 hclash
  case written =>
    intro s r v rest hmid hin k
    have hclash : writeClashes { s with inputs := rest } r = true := writeClashes_of_midway hmid
    exact run_succ_fault k ((step_cons hin).trans (foreignWrite_fault v hclash))

/-! ### The shared temporary register -/

theorem tempUse_eq (t : Timer) (s : State) :
    tempUse t s = if compareWritePending s t then .fault .concurrentAccess else .next s := rfl

/-- While a compare write is pending an outside write of a compare register of its timer clashes, for it uses the
temporary register (R41). -/
theorem writeClashes_ocr_of_pending {s : State} {t : Timer} (ch : Channel) (h : compareWritePending s t = true) :
    writeClashes s ⟨t, .ocr ch⟩ = true := by
  obtain ⟨f, u, ch', v, more, -, -, hwidth⟩ := (compareWritePending_iff s t).mp h
  simp [writeClashes, usesTemp, hwidth, h]

/-- Settles O51: both outside uses ask whether a 16-bit compare write is pending. -/
theorem temporaryRegisterUseFaultsOnAPendingCompareWrite :
    Obligations.TemporaryRegisterUseFaultsOnAPendingCompareWrite := by
  intro s t rest
  rw [← compareWritePending_iff]
  refine ⟨fun hpending hin => ?pending, fun hnot hin => ?elsewhere⟩
  case pending =>
    have hpending : compareWritePending { s with inputs := rest } t = true := hpending
    rcases hin with hin | ⟨ch, v, hin⟩ <;> rw [step_cons hin]
    · exact (tempUse_eq ..).trans (if_pos hpending)
    · exact foreignWrite_fault v (writeClashes_ocr_of_pending ch hpending)
  case elsewhere =>
    have hnot : ¬ compareWritePending { s with inputs := rest } t = true := hnot
    rw [step_cons hin]
    exact (tempUse_eq ..).trans (if_neg hnot)

end Sys2Proof.Machine
end

section
/-! A command taken access by access (R44, R47): how many advances an access takes, and the state they end in. -/

namespace Sys2Proof.Machine

/-! ### Advances, one access after the other -/

/-- The advances an access takes: an RMW is a read and then a write (R47). -/
def advanceCount : Access → Nat
  | .rmw _ _ _ _ => 2
  | .gpio _ => 1
  | .write _ _ => 1

/-- The advances a list of accesses takes. -/
def advanceCounts (as : List Access) : Nat := (as.map advanceCount).sum

@[simp] theorem advanceCounts_cons (a : Access) (as : List Access) :
    advanceCounts (a :: as) = advanceCount a + advanceCounts as := by
  simp [advanceCounts]

@[simp] theorem afterAccess_cons_inFlight (t : Timer) (f : InFlight) (a : Access) (as : List Access) (touched : Bool)
    (us : Timers) (tr : List Event) (s : State) :
    (afterAccess t f (a :: as) touched us tr s).inFlight.get t = some ⟨a :: as, touched, tr, f.answer⟩ := by
  simp [afterAccess]

/-- Of two accesses the second alone says what stands after both, but for the answer, which no access changes. -/
theorem afterAccess_afterAccess (t : Timer) (f : InFlight) (a : Access) (as rest : List Access)
    (touched touched' touched'' : Bool) (us vs : Timers) (tr tr' : List Event) (s : State) :
    afterAccess t ⟨a :: as, touched, tr, f.answer⟩ rest touched' vs tr' (afterAccess t f (a :: as) touched'' us tr s)
      = afterAccess t f rest touched' vs tr' s := by
  cases rest <;> simp [afterAccess, complete]

/-- Advanced as often as its next access takes, a command has performed that access. -/
theorem advance_iterate_access {s : State} {t : Timer} {f : InFlight} {a : Access} {as : List Access}
    (h : s.inFlight.get t = some f) (hr : f.rest = a :: as) :
    ∃ touched, (advanceCommand t)^[advanceCount a] s
      = afterAccess t f as touched (perform s.board (s.timers, f.trace) a).1 (perform s.board (s.timers, f.trace) a).2 s := by
  cases a with
  | gpio pin => exact ⟨_, advance_eq_of_gpio h hr⟩
  | write r v => exact ⟨_, advance_eq_of_write h hr⟩
  | rmw u c clr st =>
    refine ⟨true, ?_⟩
    change advanceCommand t (advanceCommand t s) = _
    rw [advance_eq_of_rmw h hr, advance_eq_of_write (afterAccess_cons_inFlight ..) rfl, afterAccess_afterAccess]
    rfl

/-- Advanced as often as its accesses take, a command has performed them all and completes (R44, R120). -/
theorem advance_iterate_all {s : State} {t : Timer} {f : InFlight} {a : Access} {as : List Access}
    (h : s.inFlight.get t = some f) (hr : f.rest = a :: as) :
    (advanceCommand t)^[advanceCounts (a :: as)] s
      = complete { s with inFlight := s.inFlight.set t none } (performAll s.board (s.timers, f.trace) (a :: as)).1
          (performAll s.board (s.timers, f.trace) (a :: as)).2 f.answer := by
  induction as generalizing s f a with
  | nil =>
    obtain ⟨touched, haccess⟩ := advance_iterate_access h hr
    exact haccess
  | cons a' as ih =>
    obtain ⟨touched, haccess⟩ := advance_iterate_access h hr
    rw [advanceCounts_cons, Nat.add_comm, Function.iterate_add_apply, haccess, ih (afterAccess_cons_inFlight ..) rfl]
    simp [afterAccess, complete]

/-! ### Advances as inputs -/

theorem afterAccess_withInputs (t : Timer) (f : InFlight) (rest : List Access) (touched : Bool) (us : Timers)
    (tr : List Event) (s : State) (xs : List Input) :
    afterAccess t f rest touched us tr { s with inputs := xs }
      = { afterAccess t f rest touched us tr s with inputs := xs } := by
  cases rest <;> rfl

/-- The inputs that wait do not bear on an advance. -/
theorem advance_withInputs (t : Timer) (s : State) (xs : List Input) :
    advanceCommand t { s with inputs := xs } = { advanceCommand t s with inputs := xs } := by
  cases h : s.inFlight.get t with
  | none => rw [advance_none h, advance_none (s := { s with inputs := xs }) h]
  | some f => rcases hr : f.rest with _ | ⟨_ | _ | _, rest⟩ <;> simp [advanceCommand, h, hr, afterAccess_withInputs]

/-- A run whose inputs begin with `n` advances of one timer makes these first. -/
theorem run_advances (t : Timer) (n : Nat) (s : State) :
    Host.Core.run Sys2Proof.core n { s with inputs := List.replicate n (.advance t) ++ s.inputs }
      = .next ((advanceCommand t)^[n] s) := by
  induction n generalizing s with
  | zero => rfl
  | succ n ih =>
    have hinputs : (advanceCommand t s).inputs = s.inputs := (takeInput_board_inputs (.advance t) s _ rfl).2
    have hstep : step { s with inputs := List.replicate (n + 1) (.advance t) ++ s.inputs } = .next
        { advanceCommand t s with inputs := List.replicate n (.advance t) ++ (advanceCommand t s).inputs } := by
      rw [step_cons (x := .advance t) (rest := List.replicate n (.advance t) ++ s.inputs) rfl, hinputs]
      exact congrArg Host.Outcome.next (advance_withInputs t s _)
    rw [run_succ_next n hstep, ih, Function.iterate_succ_apply]

/-! ### A command from its start to its end -/

/-- The command of plan `p` is begun on `t`: all its accesses are before it. -/
def begun (t : Timer) (p : Plan) (s : State) : State :=
  { s with inFlight := s.inFlight.set t (some ⟨p.accesses, false, [], p.answer⟩) }

theorem beginPlan_eq_begun {p : Plan} {s : State} {t : Timer} {a : Access} {as : List Access}
    (ht : p.timer = some t) (has : p.accesses = a :: as) (hfree : isBusy s t = false) :
    beginPlan p s = .next (begun t p s) := by
  simp [beginPlan, begun, ht, has, hfree]

theorem inFlight_of_not_busy {s : State} {t : Timer} (h : isBusy s t = false) : s.inFlight.get t = none := by
  simpa [isBusy] using h

/-- A command begun on an idle timer and advanced to its end leaves the state it leaves when run whole. -/
theorem runPlan_eq_begun_advanced {p : Plan} {s : State} {t : Timer} {a : Access} {as : List Access}
    (ht : p.timer = some t) (has : p.accesses = a :: as) (hfree : isBusy s t = false) :
    runPlan p s = .next ((advanceCommand t)^[advanceCounts (a :: as)] (begun t p s)) := by
  have hget : (begun t p s).inFlight.get t = some ⟨p.accesses, false, [], p.answer⟩ := perTimer_get_set_same ..
  have hidle : s.inFlight.set t none = s.inFlight := by
    rw [← inFlight_of_not_busy hfree, perTimer_set_get_self]
  rw [advance_iterate_all hget has]
  simp [runPlan, begun, complete, ht, has, hfree, hidle]

/-- The start of a command with accesses on an idle timer, as a step (R47). -/
theorem step_start {s : State} {w : Word} {t : Timer} {a : Access} {as : List Access} (xs : List Input)
    (ht : (planOf s.board (decode w)).timer = some t) (has : (planOf s.board (decode w)).accesses = a :: as)
    (hfree : isBusy s t = false) :
    step { s with inputs := .start w :: xs } = .next { begun t (planOf s.board (decode w)) s with inputs := xs } :=
  (step_cons (x := .start w) (rest := xs) rfl).trans (beginPlan_eq_begun (s := { s with inputs := xs }) ht has hfree)

/-- Settles O52: a command that makes no access completes at its start, any other by as many advances as its accesses
take. -/
theorem accessByAccessEqualsTheWholeCommand : Obligations.AccessByAccessEqualsTheWholeCommand := by
  intro s s' w h
  rw [exec_eq_runPlan] at h
  rcases beginPlan_cases (planOf s.board (decode w)) s with ⟨hclash, -⟩ | ⟨-, -, hbegin⟩ | ⟨t, a, as, ht, has, hfree, -⟩
  · obtain ⟨hnot, -⟩ := runPlan_next _ _ _ h
    rw [hclash] at hnot
    cases hnot
  · have hstep : step { s with inputs := .start w :: s.inputs } = .next s' :=
      (step_cons (x := .start w) (rest := s.inputs) rfl).trans (hbegin.trans h)
    exact ⟨.t0, 0, run_succ_next 0 hstep⟩
  · refine ⟨t, advanceCounts (a :: as), (run_succ_next _ (step_start _ ht has hfree)).trans ?_⟩
    exact (run_advances t _ (begun t _ s)).trans ((runPlan_eq_begun_advanced ht has hfree).symm.trans h)

end Sys2Proof.Machine
end

section
/-! Commands on different timers (R49): an access and a whole command read and change their own timer's registers and
command in progress alone, so that they commute with those of another timer. -/

namespace Sys2Proof.Machine

/-! ### Registers -/

/-- Values that differ at most on `t` differ by what is set there. -/
theorem perTimer_eq_set {α : Type} {x y : PerTimer α} {t : Timer} (h : ∀ u, u ≠ t → y.get u = x.get u) :
    y = x.set t (y.get t) := by
  obtain ⟨y0, y1, y2⟩ := y
  have h0 := h .t0
  have h1 := h .t1
  have h2 := h .t2
  cases t <;> simp_all [PerTimer.get, PerTimer.set]

theorem readReg_congr {ts us : Timers} {r : Reg} (h : us.get r.timer = ts.get r.timer) : readReg us r = readReg ts r := by
  simp only [readReg, h]

/-- What a write leaves on a timer depends on that timer's registers alone. -/
theorem writeReg_get_congr (b : BoardProfile) {ts us : Timers} {t : Timer} (r : Reg) (v : Half)
    (h : us.get t = ts.get t) : (writeReg b us r v).get t = (writeReg b ts r v).get t := by
  by_cases ht : t = r.timer
  · subst ht
    simp only [writeReg, h]
    split <;> simp
  · rw [writeReg_get_ne b us r v ht, writeReg_get_ne b ts r v ht, h]

theorem perform_get_congr (b : BoardProfile) {x y : Timers × List Event} {t : Timer} (a : Access)
    (h : y.1.get t = x.1.get t) : (perform b y a).1.get t = (perform b x a).1.get t := by
  by_cases ht : accessTimer a = some t
  · cases a with
    | gpio pin => exact h
    | rmw u c clr st =>
      obtain rfl : u = t := Option.some.inj ht
      have hread : readReg y.1 ⟨u, .ctrl c⟩ = readReg x.1 ⟨u, .ctrl c⟩ := readReg_congr h
      simp only [perform, hread]
      exact writeReg_get_congr b _ _ h
    | write r v => exact writeReg_get_congr b r v h
  · rw [(perform_spec b y a).1 t ht, (perform_spec b x a).1 t ht, h]

/-- What a list of accesses leaves on a timer depends on that timer's registers alone. -/
theorem performAll_get_congr (b : BoardProfile) (as : List Access) {x y : Timers × List Event} {t : Timer}
    (h : y.1.get t = x.1.get t) : (performAll b y as).1.get t = (performAll b x as).1.get t := by
  induction as generalizing x y with
  | nil => exact h
  | cons a as ih => exact ih (perform_get_congr b a h)

/-! ### The timer of an access -/

/-- The access is on no timer but `t`. -/
def OnlyOn (t : Timer) (a : Access) : Prop := ∀ u, accessTimer a = some u → u = t

theorem onlyOn_gpio (t : Timer) (pin : Pin) : OnlyOn t (.gpio pin) := by simp [OnlyOn, accessTimer]

theorem onlyOn_of_planAccessOk {b : BoardProfile} {t : Timer} {a : Access} (h : planAccessOk b t a = true) :
    OnlyOn t a := by
  cases a with
  | gpio pin => exact onlyOn_gpio t pin
  | rmw u c clr st =>
    obtain ⟨rfl, -, -⟩ := (planAccessOk_rmw ..).mp h
    simp [OnlyOn, accessTimer]
  | write r v =>
    obtain ⟨u, c | ch⟩ := r
    · simp at h
    · obtain ⟨rfl, -⟩ := (planAccessOk_write_ocr ..).mp h
      simp [OnlyOn, accessTimer]

/-- The next access of a command in progress on `t` is on no other timer. -/
theorem onlyOn_of_restOk {b : BoardProfile} {ts : Timers} {t : Timer} {touched : Bool} {a : Access} {as : List Access}
    (h : restOk b ts t touched (a :: as) = true) : OnlyOn t a := by
  rcases ((restOk_cons_iff ..).mp h).1 with hown | ⟨-, pin, rfl⟩ | ⟨-, c, v, rfl, -, -⟩
  · exact onlyOn_of_planAccessOk hown
  · exact onlyOn_gpio t pin
  · simp [OnlyOn, accessTimer]

/-- The accesses of a command on `t` are on no other timer. -/
theorem onlyOn_of_planOk {b : BoardProfile} {p : Plan} {t : Timer} (hp : PlanOk b p) (ht : p.timer = some t) :
    ∀ a ∈ p.accesses, OnlyOn t a := by
  obtain ⟨-, hacc⟩ := hp
  rw [ht] at hacc
  obtain ⟨as, hown, hplan⟩ := hacc
  have hall : ∀ a ∈ as, OnlyOn t a := fun a ha => onlyOn_of_planAccessOk (List.all_eq_true.mp hown a ha)
  rcases hplan with heq | ⟨pin, heq⟩ <;> rw [heq]
  · exact hall
  · exact List.forall_mem_cons.mpr ⟨onlyOn_gpio t pin, hall⟩

/-- From registers that agree with `ts` on `t`, accesses on `t` set the registers of `t` to what they set them to from
`ts`, and no others. -/
theorem performAll_eq_set {b : BoardProfile} {ts us : Timers} {t : Timer} {as : List Access} (tr : List Event)
    (hon : ∀ a ∈ as, OnlyOn t a) (h : us.get t = ts.get t) :
    (performAll b (us, tr) as).1 = us.set t ((performAll b (ts, []) as).1.get t) := by
  rw [← performAll_get_congr b as (x := (ts, [])) (y := (us, tr)) h]
  exact perTimer_eq_set fun u hu => performAll_get_ne b as (us, tr) fun a ha htimer => hu (hon a ha u htimer)

/-! ### Changes of one timer -/

/-- What a command on `t` can read: the profile, and of its own timer the registers and the command in progress. -/
structure AgreeOn (t : Timer) (s s' : State) : Prop where
  board : s'.board = s.board
  timers : s'.timers.get t = s.timers.get t
  inFlight : s'.inFlight.get t = s.inFlight.get t

theorem AgreeOn.refl (t : Timer) (s : State) : AgreeOn t s s := ⟨rfl, rfl, rfl⟩

/-- `s'` is `s` with the registers of `t` set to `x` and its command in progress to `y`, and the refusal mark raised if `m`
is; RESULT and the trace may be anything. -/
structure SetsOn (t : Timer) (x : TimerRegs) (y : Option InFlight) (m : Bool) (s s' : State) : Prop where
  board : s'.board = s.board
  timers : s'.timers = s.timers.set t x
  inFlight : s'.inFlight = s.inFlight.set t y
  mark : s'.refusalMark = (s.refusalMark || m)

/-- A change on one timer is not seen by a command on another. -/
theorem SetsOn.agreeOn {t u : Timer} {x : TimerRegs} {y : Option InFlight} {m : Bool} {s s' : State}
    (h : SetsOn t x y m s s') (hne : u ≠ t) : AgreeOn u s s' :=
  ⟨h.board, by rw [h.timers, perTimer_get_set_ne _ _ hne], by rw [h.inFlight, perTimer_get_set_ne _ _ hne]⟩

/-- Two changes on different timers, made in either order, end in the same registers, commands in progress and mark. -/
theorem SetsOn.comm {t u : Timer} {x x' : TimerRegs} {y y' : Option InFlight} {m m' : Bool} {s s₁ s₁₂ s₂ s₂₁ : State}
    (hne : t ≠ u) (h₁ : SetsOn t x y m s s₁) (h₁₂ : SetsOn u x' y' m' s₁ s₁₂)
    (h₂ : SetsOn u x' y' m' s s₂) (h₂₁ : SetsOn t x y m s₂ s₂₁) :
    s₂₁.timers = s₁₂.timers ∧ s₂₁.inFlight = s₁₂.inFlight ∧ s₂₁.refusalMark = s₁₂.refusalMark := by
  refine ⟨?_, ?_, ?_⟩
  · rw [h₂₁.timers, h₂.timers, h₁₂.timers, h₁.timers, perTimer_set_comm _ _ _ hne]
  · rw [h₂₁.inFlight, h₂.inFlight, h₁₂.inFlight, h₁.inFlight, perTimer_set_comm _ _ _ hne]
  · rw [h₂₁.mark, h₂.mark, h₁₂.mark, h₁.mark, Bool.or_right_comm]

/-! ### An access and a whole command as changes of their timer -/

/-- The command in progress after an access: none where nothing is left of it. -/
def leftInFlight (f : InFlight) (touched : Bool) (tr : List Event) : List Access → Option InFlight
  | [] => none
  | a :: as => some ⟨a :: as, touched, tr, f.answer⟩

theorem afterAccess_setsOn {t : Timer} (f : InFlight) (rest : List Access) (touched : Bool) (x : TimerRegs)
    (tr : List Event) (s : State) :
    SetsOn t x (leftInFlight f touched tr rest) (rest.isEmpty && f.answer.status == .unsupported) s
      (afterAccess t f rest touched (s.timers.set t x) tr s) := by
  cases rest with
  | nil => exact ⟨rfl, rfl, rfl, rfl⟩
  | cons a as => exact ⟨rfl, rfl, rfl, (Bool.or_false _).symm⟩

theorem setsOn_self {s : State} {t : Timer} {x : TimerRegs} {y : Option InFlight} (hx : s.timers.get t = x)
    (hy : s.inFlight.get t = y) : SetsOn t x y false s s :=
  ⟨rfl, by rw [← hx, perTimer_set_get_self], by rw [← hy, perTimer_set_get_self], (Bool.or_false _).symm⟩

/-- The access an advance makes of a command in progress reads and sets the registers of its own timer alone: it is the
same in every state that agrees on that timer. -/
theorem advance_eq_on {s : State} {t : Timer} {f : InFlight} (hget : s.inFlight.get t = some f)
    (hok : restOk s.board s.timers t f.touched f.rest = true) :
    ∃ x rest touched tr, ∀ s', AgreeOn t s s' →
      advanceCommand t s' = afterAccess t f rest touched (s'.timers.set t x) tr s' := by
  rcases hr : f.rest with _ | ⟨a, as⟩ <;> rw [hr] at hok
  · simp at hok
  have hon : OnlyOn t a := onlyOn_of_restOk hok
  have hkept (s' : State) (hag : AgreeOn t s s') : s'.timers.set t (s.timers.get t) = s'.timers := by
    rw [← hag.timers, perTimer_set_get_self]
  cases a with
  | gpio pin =>
    refine ⟨s.timers.get t, as, f.touched, f.trace ++ [.gpioOut pin], fun s' hag => ?_⟩
    rw [advance_eq_of_gpio (hag.inFlight.trans hget) hr, hkept s' hag]
  | rmw u c clr st =>
    obtain rfl : u = t := hon u rfl
    refine ⟨s.timers.get u, .write ⟨u, .ctrl c⟩ (rmwValue (readReg s.timers ⟨u, .ctrl c⟩) clr st) :: as, true, f.trace,
      fun s' hag => ?_⟩
    rw [advance_eq_of_rmw (hag.inFlight.trans hget) hr, readReg_congr (r := ⟨u, .ctrl c⟩) hag.timers, hkept s' hag]
  | write r v =>
    refine ⟨(writeReg s.board s.timers r v).get t, as, true, f.trace ++ [.wrote r v], fun s' hag => ?_⟩
    have hwrite : writeReg s.board s'.timers r v = s'.timers.set t ((writeReg s.board s.timers r v).get t) :=
      performAll_eq_set (as := [.write r v]) [] (by simpa using hon) hag.timers
    rw [advance_eq_of_write (hag.inFlight.trans hget) hr, hag.board, hwrite]

/-- An advance of `t` makes one and the same change of `t` in every state that agrees with `s` on `t`. -/
theorem advance_setsOn {s : State} (t : Timer) (hinv : Inv s) :
    ∃ x y m, ∀ s', AgreeOn t s s' → SetsOn t x y m s' (advanceCommand t s') := by
  cases hget : s.inFlight.get t with
  | none =>
    refine ⟨s.timers.get t, none, false, fun s' hag => ?_⟩
    have hnone : s'.inFlight.get t = none := hag.inFlight.trans hget
    rw [advance_none hnone]
    exact setsOn_self hag.timers hnone
  | some f =>
    obtain ⟨-, -, hfl⟩ := (inv_iff s).mp hinv
    obtain ⟨hok, -⟩ := (inFlightOk_iff s t).mp (hfl t) f hget
    obtain ⟨x, rest, touched, tr, hadvance⟩ := advance_eq_on hget hok
    exact ⟨x, _, _, fun s' hag => hadvance s' hag ▸ afterAccess_setsOn f rest touched x tr s'⟩

/-- A whole command on `t` that completes from `s` completes from every state that agrees with `s` on `t`, with one and
the same change of `t`. -/
theorem exec_setsOn {s s' : State} {i : Instr} {pin : Pin} {t : Timer} {ch : Channel} (hpin : timerPin i = some pin)
    (hres : resolvePin s.board pin = some (t, ch)) (h : exec i s = .next s') :
    ∃ x y m, ∀ r, AgreeOn t s r → ∃ r', exec i r = .next r' ∧ SetsOn t x y m r r' := by
  have ht : (planOf s.board i).timer = some t := planOf_timer_eq hpin hres
  have hfree : isBusy s t = false := by
    obtain ⟨hclash, -⟩ := runPlan_next _ _ _ ((exec_eq_runPlan i s).symm.trans h)
    rwa [ht] at hclash
  refine ⟨(performAll s.board (s.timers, []) (planOf s.board i).accesses).1.get t, none,
    (planOf s.board i).answer.status == .unsupported, fun r hag => ?_⟩
  have hnone : r.inFlight.get t = none := hag.inFlight.trans (inFlight_of_not_busy hfree)
  have hrun : exec i r = runPlan (planOf s.board i) r := by rw [exec_eq_runPlan, hag.board]
  rcases runPlan_cases (planOf s.board i) r with ⟨hclash, -⟩ | ⟨-, hnext⟩
  · simp [ht, isBusy, hnone] at hclash
  · refine ⟨_, hrun.trans hnext, rfl, ?_, ?_, rfl⟩
    · rw [complete_timers, hag.board]
      exact performAll_eq_set [] (onlyOn_of_planOk (planOk_planOf s.board i) ht) hag.timers
    · rw [complete_inFlight, ← hnone, perTimer_set_get_self]

/-! ### Commuting -/

/-- Settles O53: each advance makes its own change whether the other has been made or not, and the changes commute. -/
theorem accessesOnDifferentTimersCommute : Obligations.AccessesOnDifferentTimersCommute := by
  intro s t u hinv hne
  obtain ⟨x, y, m, ht⟩ := advance_setsOn t hinv
  obtain ⟨x', y', m', hu⟩ := advance_setsOn u hinv
  have tFirst := ht s (.refl t s)
  have uFirst := hu s (.refl u s)
  have uAfter := hu _ (tFirst.agreeOn hne.symm)
  have tAfter := ht _ (uFirst.agreeOn hne)
  obtain ⟨htimers, hflight, hmark⟩ := SetsOn.comm hne tFirst uAfter uFirst tAfter
  exact ⟨htimers, hflight, hmark, (tFirst.agreeOn hne.symm).timers⟩

/-- Settles O54: the command and the advance each make their own change in either order, and the changes commute. -/
theorem commandCommutesWithAnotherTimersAccess : Obligations.CommandCommutesWithAnotherTimersAccess := by
  intro s s' i pin t u ch hinv hne hpin hres h
  obtain ⟨x, y, m, hcommand⟩ := exec_setsOn hpin hres h
  obtain ⟨x', y', m', hadvance⟩ := advance_setsOn u hinv
  have advanceFirst := hadvance s (.refl u s)
  obtain ⟨r, hr, commandFirst⟩ := hcommand s (.refl t s)
  cases hr.symm.trans h
  obtain ⟨s'', hs'', commandAfter⟩ := hcommand _ (advanceFirst.agreeOn hne)
  have advanceAfter := hadvance _ (commandFirst.agreeOn hne.symm)
  exact ⟨s'', hs'', SetsOn.comm hne commandFirst advanceAfter advanceFirst commandAfter⟩

end Sys2Proof.Machine
end

section
/-! The encoding (R51 to R65): a word is packed from its fields, so encoding undoes decoding; every word is thus the word
of a well-formed command, whose op field tells its row of R55. -/

namespace Sys2Proof.Machine

/-- Settles O1: the round trip of every constructor. -/
theorem decodeOfEncodeIsTheCommand : Obligations.DecodeOfEncodeIsTheCommand := decode_encode

/-! ### The word of a decoded command -/

/-- The fields of R51 take up the whole word. -/
theorem packWord_fields (w : Word) :
    packWord (opField w) (pinField w) (freqField w) (dutyField w) (otypeField w) (settingField w) (modeField w) = w := by
  ext i hi
  interval_cases i <;>
    simp [packWord, opField, pinField, freqField, dutyField, otypeField, settingField, modeField]

/-- A word of op 7 is that of the SETPHASE that keeps its other bits (R113). -/
theorem encode_setphase_of_op {w : Word} (h : opField w = 7) : encode (.setphase (w.extractLsb' 0 28)) = w := by
  have hpack : (opField w).setWidth 32 <<< 28 ||| (w.extractLsb' 0 28).setWidth 32 = w := by
    ext i hi
    interval_cases i <;> simp [opField]
  rwa [h] at hpack

/-- Encoding undoes decoding: the fields a command does not hold are zero in the words its row selects (R55, R64). -/
theorem encode_decode (w : Word) : encode (decode w) = w := by
  by_cases hop : opField w = 7
  · have hdec : decode w = .setphase (w.extractLsb' 0 28) := by simp [decode, hop]
    rw [hdec, encode_setphase_of_op hop]
  have hpack := packWord_fields w
  unfold decode
  split_ifs
  case neg => rfl
  -- RESOLVE to APPLY: the row's op and zero fields, put into `hpack`, make its word the command's.
  all_goals simp_all [encode, zero_bits_iff]

/-- Settles O2: the round trip of every word. -/
theorem encodeOfDecodeIsTheWord : Obligations.EncodeOfDecodeIsTheWord :=
  fun w => ⟨wellFormed_decode w, encode_decode w⟩

/-! ### The rows of the opcode table (R55) -/

/-- The rows but RESERVED are those of the well-formedness check. -/
theorem selectsNamedRow_eq_any (w : Word) : selectsNamedRow w = (opcodeRows.take 8).any (·.selects w) := by
  simp [selectsNamedRow, opcodeRows, OpcodeRow.selects, Bool.or_assoc]

/-- A row that selects a word selects its op field. -/
theorem opField_of_selects {r : OpcodeRow} {w : Word} (h : r.selects w = true) :
    opField w &&& opField r.mask = opField r.value := by
  rw [← beq_iff_eq.mp h, opField, opField, opField, BitVec.extractLsb'_and]

/-- The ops 0 to 7 number the rows they select, so no second row selects a word of theirs (R54, R55). -/
theorem mnemonic_of_op {op : BitVec 4} {w : Word} {r : OpcodeRow} (hop : opField w = op) (hlt : op < 8)
    (hr : r ∈ opcodeRows) (h : r.selects w = true) :
    opcodeRows[op.toNat]?.map OpcodeRow.mnemonic = some r.mnemonic := by
  have table : ∀ op : BitVec 4, op < 8 → ∀ r ∈ opcodeRows, op &&& opField r.mask = opField r.value →
      opcodeRows[op.toNat]?.map OpcodeRow.mnemonic = some r.mnemonic := by decide
  exact table op hlt r hr (hop ▸ opField_of_selects h)

/-- The word of a command is selected by the row that bears the command's name alone: the rows of op 0 to 7 by their op, and
RESERVED because no other row selects its word. -/
theorem mnemonic_of_selects {i : Instr} (hwf : i.wellFormed = true) {r : OpcodeRow} (hr : r ∈ opcodeRows)
    (h : r.selects (encode i) = true) : i.mnemonic = r.mnemonic := by
  cases i with
  | resolve pin => exact Option.some.inj (mnemonic_of_op (Laws.OpField.resolve pin) (by decide) hr h)
  | setmode pin m => exact Option.some.inj (mnemonic_of_op (Laws.OpField.setmode pin m) (by decide) hr h)
  | setadv pin m a => exact Option.some.inj (mnemonic_of_op (Laws.OpField.setadv pin m a) (by decide) hr h)
  | setfreq pin f => exact Option.some.inj (mnemonic_of_op (Laws.OpField.setfreq pin f) (by decide) hr h)
  | setduty pin p => exact Option.some.inj (mnemonic_of_op (Laws.OpField.setduty pin p) (by decide) hr h)
  | setout pin o => exact Option.some.inj (mnemonic_of_op (Laws.OpField.setout pin o) (by decide) hr h)
  | apply pin m a o p f => exact Option.some.inj (mnemonic_of_op (Laws.OpField.apply pin m a o p f) (by decide) hr h)
  | setphase x => exact Option.some.inj (mnemonic_of_op (Laws.OpField.setphase x) (by decide) hr h)
  | reserved w =>
    have hnone : ∀ q ∈ opcodeRows.take 8, q.selects w = false := by
      simpa [Instr.wellFormed, selectsNamedRow_eq_any] using hwf
    have hsplit : ∀ q ∈ opcodeRows, q ∈ opcodeRows.take 8 ∨ q.mnemonic = "RESERVED" := by decide
    rcases hsplit r hr with hnamed | hreserved
    · exact absurd h (by simp [encode, hnone r hnamed])
    · exact hreserved.symm

/-- Settles O3: a word is that of the command it decodes to, which one row selects. -/
theorem decodeFollowsTheOpcodeTable : Obligations.DecodeFollowsTheOpcodeTable := by
  refine fun w => ⟨fun r hr h => ?_, fun h => ?_⟩
  · exact mnemonic_of_selects (wellFormed_decode w) hr (by rwa [encode_decode])
  · refine decode_of_not_selected ?_
    rw [selectsNamedRow_eq_any]
    simpa using fun r hr => h r (List.mem_of_mem_take hr)

/-! ### The assembler form (R65) -/

/-- SETPHASE with the pin as its only operand keeps the pin among its ignored bits. -/
theorem packWord_setphase (pin : Pin) : packWord 7 pin 0 0 0 0 0 = encode (.setphase (pin ++ 0#21)) := by
  have hbit (i : Nat) : (pin ++ 0#21).getLsbD i = if i < 21 then (0#21).getLsbD i else pin.getLsbD (i - 21) :=
    BitVec.getLsbD_append
  ext i hi
  interval_cases i <;> simp [packWord, encode, ← BitVec.getLsbD_eq_getElem, hbit]

/-- The codes 10 to 31 name no frequency choice (R60). -/
theorem freqOfCode_eq_none (k : BitVec 5) (h : 10 ≤ k.toNat) : freqOfCode k = none := by
  revert k
  decide

/-- Settles O5: a line is the word of its command, and the codes of the names are finite tables. -/
theorem assemblerNamesDecodeBack : Obligations.AssemblerNamesDecodeBack := by
  refine ⟨fun pin m a o p f w => ?lines, fun _ _ _ _ _ _ => ?operands, ?modes, ?settings, ?outputs, ?freqs, ?modesBack,
    ?settingsBack, ?outputsBack, ?freqsBack, freqOfCode_eq_none⟩
  case lines =>
    refine ⟨decode_encode _ rfl, decode_encode _ rfl, decode_encode _ rfl, decode_encode _ rfl, decode_encode _ rfl,
      decode_encode _ rfl, decode_encode _ rfl, ?setphase, rfl⟩
    exact (congrArg decode (packWord_setphase pin)).trans (decode_encode _ rfl)
  case operands => exact ⟨rfl, rfl, rfl, rfl, rfl, rfl, rfl, rfl⟩
  all_goals decide

/-- Settles O4: each word is the encoding of its command. -/
theorem wordsWrittenOutDecode : Obligations.WordsWrittenOutDecode :=
  ⟨decode_encode (.resolve 9) rfl, decode_encode (.setmode 6 3) rfl, decode_encode (.setadv 9 1 2) rfl,
    decode_encode (.setfreq 6 5) rfl, decode_encode (.setduty 6 25) rfl, decode_encode (.setout 6 2) rfl,
    decode_encode (.apply 6 1 0 2 25 5) rfl, decode_encode (.setphase 0x0C00000) rfl,
    decode_encode (.reserved 0x80000000) rfl⟩

end Sys2Proof.Machine
end

section
/-! Codes that name no member of their enumeration (R57), the fields of RESULT (R53), and the frequencies of UNO328P
(R90, R93). -/

namespace Sys2Proof.Machine

/-! ### Codes out of range -/

theorem modeOfCode_eq_none {c : BitVec 3} (h : 4 < c.toNat) : modeOfCode c = none := by
  revert c; decide

theorem settingOfCode_eq_none {c : BitVec 3} (h : 4 < c.toNat) : settingOfCode c = none := by
  revert c; decide

theorem outputOfCode_eq_none {c : BitVec 3} (h : 3 < c.toNat) : outputOfCode c = none := by
  revert c; decide

theorem setmodeBody_undefined (b : BoardProfile) (t : Timer) {mode : BitVec 3} (h : 4 < mode.toNat) :
    setmodeBody b t mode = ⟨[], .undefinedValue⟩ := by
  simp [setmodeBody, modeOfCode_eq_none h]

theorem setadvBody_undefined (b : BoardProfile) (t : Timer) {mode setting : BitVec 3}
    (h : 4 < mode.toNat ∨ 4 < setting.toNat) : setadvBody b t mode setting = ⟨[], .undefinedValue⟩ := by
  rcases h with hmode | hsetting
  · simp [setadvBody, modeOfCode_eq_none hmode]
  · simp [setadvBody, settingOfCode_eq_none hsetting]

theorem setoutBody_undefined (b : BoardProfile) (t : Timer) (ch : Channel) {otype : BitVec 3} (h : 3 < otype.toNat) :
    setoutBody b t ch otype = ⟨[], .undefinedValue⟩ := by
  simp [setoutBody, outputOfCode_eq_none h]

/-- A command whose body ends UndefinedValue with no access loads RESULT and empties the trace, nothing else (R10). -/
theorem runPlan_undefined {s : State} {t : Timer} (h : isBusy s t = false) :
    runPlan (bodyPlan t ⟨[], .undefinedValue⟩) s = .next { s with trace := [], result := 4 } := by
  simp [runPlan_body _ h, complete, raised, resultWord, stageField, ownerField, statusCode]

/-- Settles O14: the body of either command is UndefinedValue alone. -/
theorem modeCodesOutOfRangeAreUndefinedValue : Obligations.ModeCodesOutOfRangeAreUndefinedValue := by
  intro s pin mode setting t ch hres hfree himpl
  refine ⟨fun h => ?setmode, fun h => ?setadv⟩
  case setmode =>
    have hplan : planOf s.board (.setmode pin mode) = bodyPlan t ⟨[], .undefinedValue⟩ := by
      simp [planOf, setmodePlan, planAt_some _ hres, whenImpl, himpl, setmodeBody_undefined _ _ h]
    rw [exec_eq_runPlan, hplan, runPlan_undefined hfree]
  case setadv =>
    have hplan : planOf s.board (.setadv pin mode setting) = bodyPlan t ⟨[], .undefinedValue⟩ := by
      simp [planOf, setadvPlan, planAt_some _ hres, whenImpl, himpl, setadvBody_undefined _ _ h]
    rw [exec_eq_runPlan, hplan, runPlan_undefined hfree]

/-- Settles O31: the body of SETOUT is UndefinedValue alone. -/
theorem outputCodeOutOfRangeIsUndefinedValue : Obligations.OutputCodeOutOfRangeIsUndefinedValue := by
  intro s pin otype t ch hres hfree h
  have hplan : planOf s.board (.setout pin otype) = bodyPlan t ⟨[], .undefinedValue⟩ := by
    simp [planOf, setoutPlan, planAt_some _ hres, setoutBody_undefined _ _ _ h]
  rw [exec_eq_runPlan, hplan, runPlan_undefined hfree]

/-! ### The result word -/

/-- Fields placed at bits 12, 8 and 0 do not overlap and leave the other bits 0 (R53). -/
theorem extract_resultFields (stage : BitVec 3) (owner : BitVec 4) (status : BitVec 3) {w : Word}
    (hw : w = stage.setWidth 32 <<< 12 ||| owner.setWidth 32 <<< 8 ||| status.setWidth 32) :
    w.extractLsb' 0 3 = status ∧ w.extractLsb' 3 5 = 0 ∧ w.extractLsb' 8 4 = owner ∧ w.extractLsb' 12 3 = stage
      ∧ w.extractLsb' 15 17 = 0 := by
  subst hw
  refine ⟨?_, ?_, ?_, ?_, ?_⟩ <;> ext i hi <;> interval_cases i <;> simp

/-- Settles O38: the three fields of an answer stand in the places of R53. -/
theorem resultWordHoldsEachFieldInItsPlace : Obligations.ResultWordHoldsEachFieldInItsPlace :=
  fun _ => extract_resultFields _ _ _ rfl

/-! ### The frequencies of UNO328P -/

theorem csPattern_eq_none (b : BoardProfile) (t : Timer) {k : BitVec 5} (h : 10 ≤ k.toNat) : csPattern b t k = none := by
  simp [csPattern, freqOfCode_eq_none k h]

/-- The divider and reference period of each supported choice give the number in its name (R90, R93). -/
theorem uno_nominalHz (t : Timer) (f : FrequencyChoice) (h : (uno328p.freqTable.get t).get f ≠ none) :
    nominalHz uno328p t f = some (choiceHz f) := by
  revert h
  cases t <;> cases f <;> decide

/-- Settles O57: the tables by evaluation, the codes above 9 because they name no choice. -/
theorem unoChoicesBearTheirNominalFrequency : Obligations.UnoChoicesBearTheirNominalFrequency :=
  ⟨by decide, fun t => ⟨rfl, fun _ => csPattern_eq_none uno328p t⟩, by decide, uno_nominalHz⟩

end Sys2Proof.Machine
end

section
/-! Good runs of one caller's commands (R118, R130): which commands answer Unsupported where the profile has every table,
and a run followed one command at a time. -/

namespace Sys2Proof.Machine

/-! ### Which commands answer Unsupported -/

/-- The names of the rows from RESOLVE to APPLY (R55). -/
def supportedNames : List String := (opcodeRows.take 7).map OpcodeRow.mnemonic

@[simp] theorem supportedNames_eq :
    supportedNames = ["RESOLVE", "SETMODE", "SETADV", "SETFREQ", "SETDUTY", "SETOUT", "APPLY"] := rfl

/-- A word is selected by a row from RESOLVE to APPLY where it decodes to a command of that name. -/
theorem selected_iff_supported (w : Word) :
    (opcodeRows.take 7).any (·.selects w) = true ↔ (decode w).mnemonic ∈ supportedNames := by
  obtain ⟨hrow, hreserved⟩ := decodeFollowsTheOpcodeTable w
  constructor
  · intro h
    obtain ⟨r, hr, hsel⟩ := List.any_eq_true.mp h
    exact hrow r (List.mem_of_mem_take hr) hsel ▸ List.mem_map_of_mem hr
  · intro h
    have hsome : ∃ r ∈ opcodeRows, r.selects w = true := by
      by_contra hnone
      rw [hreserved fun r hr => Bool.eq_false_iff.mpr fun hsel => hnone ⟨r, hr, hsel⟩] at h
      exact absurd h (by simp [Instr.mnemonic])
    obtain ⟨r, hr, hsel⟩ := hsome
    have byName : ∀ r ∈ opcodeRows, r.mnemonic ∈ supportedNames → r ∈ opcodeRows.take 7 := by decide
    exact List.any_eq_true.mpr ⟨r, byName r hr (hrow r hr hsel ▸ h), hsel⟩

theorem setmodeBody_supported (b : BoardProfile) (t : Timer) (mode : BitVec 3) :
    (setmodeBody b t mode).status ≠ .unsupported := by
  unfold setmodeBody
  split <;> simp

theorem setadvBody_supported (b : BoardProfile) (t : Timer) (mode setting : BitVec 3) :
    (setadvBody b t mode setting).status ≠ .unsupported := by
  unfold setadvBody
  split <;> simp

theorem setfreqBody_supported (b : BoardProfile) (t : Timer) (freq : BitVec 5) :
    (setfreqBody b t freq).status ≠ .unsupported := by
  unfold setfreqBody
  split <;> simp

theorem setdutyBody_supported (b : BoardProfile) (t : Timer) (ch : Channel) (duty : BitVec 7) :
    (setdutyBody b t ch duty).status ≠ .unsupported := by
  unfold setdutyBody
  split <;> simp

theorem setoutBody_supported (b : BoardProfile) (t : Timer) (ch : Channel) (otype : BitVec 3) :
    (setoutBody b t ch otype).status ≠ .unsupported := by
  unfold setoutBody
  split <;> simp

theorem planAt_supported {b : BoardProfile} {pin : Pin} {f : Timer → Channel → Plan}
    (h : ∀ t ch, (f t ch).answer.status ≠ .unsupported) : (planAt b pin f).answer.status ≠ .unsupported := by
  cases hp : resolvePin b pin with
  | none => simp [planAt_none f hp, rejectPlan, raised]
  | some o => exact planAt_some f hp ▸ h o.1 o.2

theorem resolvePlan_supported (b : BoardProfile) (pin : Pin) : (resolvePlan b pin).answer.status ≠ .unsupported := by
  unfold resolvePlan
  split <;> simp [rejectPlan, raised]

/-- The parts of an APPLY answer Unsupported only where one of them does (R112). -/
theorem runParts_supported (xs : List (Stage × Body)) (h : ∀ x ∈ xs, x.2.status ≠ .unsupported) :
    (runParts xs).2.status ≠ .unsupported := by
  induction xs with
  | nil => simp [runParts, okAnswer]
  | cons x xs ih =>
    obtain ⟨hx, hrest⟩ := List.forall_mem_cons.mp h
    simp only [runParts]
    split
    · exact ih hrest
    · exact hx

/-- With every mode and frequency table there, the commands of the rows from RESOLVE to APPLY never answer Unsupported,
SETPHASE and reserved words always (R63, R86, R94, R113). -/
theorem planOf_supported_iff {b : BoardProfile} (hmode : ∀ t, b.modeImpl.get t = true)
    (hfreq : ∀ t, b.freqImpl.get t = true) (i : Instr) :
    (planOf b i).answer.status ≠ .unsupported ↔ i.mnemonic ∈ supportedNames := by
  cases i with
  | resolve pin => exact iff_of_true (resolvePlan_supported b pin) (by simp [Instr.mnemonic])
  | setmode pin mode =>
    refine iff_of_true (planAt_supported fun t _ => ?_) (by simp [Instr.mnemonic])
    simpa [bodyPlan, raised, whenImpl, hmode] using setmodeBody_supported b t mode
  | setadv pin mode setting =>
    refine iff_of_true (planAt_supported fun t _ => ?_) (by simp [Instr.mnemonic])
    simpa [bodyPlan, raised, whenImpl, hmode] using setadvBody_supported b t mode setting
  | setfreq pin freq =>
    refine iff_of_true (planAt_supported fun t _ => ?_) (by simp [Instr.mnemonic])
    simpa [bodyPlan, raised, whenImpl, hfreq] using setfreqBody_supported b t freq
  | setduty pin duty =>
    exact iff_of_true (planAt_supported fun t ch => setdutyBody_supported b t ch duty) (by simp [Instr.mnemonic])
  | setout pin otype =>
    exact iff_of_true (planAt_supported fun t ch => setoutBody_supported b t ch otype) (by simp [Instr.mnemonic])
  | apply pin mode setting otype duty freq =>
    refine iff_of_true (planAt_supported fun t ch => ?_) (by simp [Instr.mnemonic])
    simpa [hmode, hfreq] using runParts_supported (applyParts b t ch mode setting otype duty freq) (by
      simp [applyParts, setadvBody_supported, setfreqBody_supported, setdutyBody_supported, setoutBody_supported])
  | setphase x => exact iff_of_false (not_not_intro rfl) (by simp [Instr.mnemonic])
  | reserved w => exact iff_of_false (not_not_intro rfl) (by simp [Instr.mnemonic])

/-! ### Runs of commands -/

/-- A run that is over stays where it is (R130). -/
theorem run_idle {s : State} (h : s.inputs = []) (k : Nat) : Host.Core.run Sys2Proof.core k s = .next s := by
  induction k with
  | zero => rfl
  | succ k ih => rw [run_succ_next k (step_idle h), ih]

theorem goodRun_of_ended {s : State} (h : RunEnded s) : GoodRun s ↔ s.refusalMark = false := by
  constructor
  · rintro ⟨k, t, hrun, -, hmark⟩
    cases (run_idle h.1 k).symm.trans hrun
    exact hmark
  · exact fun hmark => ⟨0, s, rfl, h, hmark⟩

/-- A run with an input waiting is good where it is good from its first step on. -/
theorem goodRun_step {s s' : State} (hwaits : s.inputs ≠ []) (h : step s = .next s') : GoodRun s ↔ GoodRun s' := by
  constructor
  · rintro ⟨k, t, hrun, hend, hmark⟩
    cases k with
    | zero =>
      cases hrun
      exact absurd hend.1 hwaits
    | succ k => exact ⟨k, t, (run_succ_next k h).symm.trans hrun, hend, hmark⟩
  · rintro ⟨k, t, hrun, hend, hmark⟩
    exact ⟨k + 1, t, (run_succ_next k h).trans hrun, hend, hmark⟩

/-- With no command in progress every command completes, and in doing so it bears on the run only through the refusal
mark (R118, R120). -/
theorem exec_idle (i : Instr) {s : State} (h : s.inFlight = ⟨none, none, none⟩) :
    ∃ s', exec i s = .next s' ∧ s'.board = s.board ∧ s'.inFlight = ⟨none, none, none⟩ ∧ s'.inputs = s.inputs
      ∧ (s'.refusalMark = false ↔ s.refusalMark = false ∧ (planOf s.board i).answer.status ≠ .unsupported) := by
  have hfree : ∀ t, isBusy s t = false := fun t => by cases t <;> simp [isBusy, h, PerTimer.get]
  rw [exec_eq_runPlan]
  rcases runPlan_cases (planOf s.board i) s with ⟨hclash, -⟩ | ⟨-, hrun⟩
  · obtain ⟨t, -, hbusy⟩ := (clashes_iff ..).mp hclash
    exact absurd hbusy (by simp [hfree])
  · exact ⟨_, hrun, rfl, h, rfl, by simp⟩

/-- One caller's run is good where it begins unmarked and none of its commands answers Unsupported (R118, R130). -/
theorem goodRun_commands_iff (ws : List Word) {s : State} (hidle : s.inFlight = ⟨none, none, none⟩)
    (hin : s.inputs = ws.map .command) :
    GoodRun s ↔ s.refusalMark = false ∧ ∀ w ∈ ws, (planOf s.board (decode w)).answer.status ≠ .unsupported := by
  induction ws generalizing s with
  | nil => simpa using goodRun_of_ended ⟨hin, hidle⟩
  | cons w ws ih =>
    obtain ⟨s', hexec, hboard, hidle', hin', hmark⟩ :=
      exec_idle (decode w) (s := { s with inputs := ws.map .command }) hidle
    have hstep : step s = .next s' := (step_cons hin).trans hexec
    rw [goodRun_step (by simp [hin]) hstep, ih hidle' hin', hmark, hboard, List.forall_mem_cons, and_assoc]

/-- Settles O47: UNO328P has every table, so only SETPHASE and reserved words answer Unsupported. -/
theorem unoRunIsGoodExactlyWithoutUnsupportedWords : Obligations.UnoRunIsGoodExactlyWithoutUnsupportedWords := by
  intro s ws hboard hidle hmark hin
  have hmode : ∀ t, uno328p.modeImpl.get t = true := fun t => by cases t <;> rfl
  have hfreq : ∀ t, uno328p.freqImpl.get t = true := fun t => by cases t <;> rfl
  simp only [goodRun_commands_iff ws hidle hin, hmark, hboard, true_and, planOf_supported_iff hmode hfreq,
    selected_iff_supported]

end Sys2Proof.Machine
end

section
/-! The pin table (R67 to R69): resolving a pin finds the pin's row. RESOLVE and the pin check (R70, R71), and commands
that read of their pin its timer alone (R72). -/

namespace Sys2Proof.Machine

/-! ### The rows of the pin table -/

theorem pinMapWf_iff (rows : List PinRow) :
    pinMapWf rows = true ↔ (rows.map (·.pin)).Nodup ∧ (rows.map fun r => (r.timer, r.channel)).Nodup := by
  simp [pinMapWf]

theorem mem_pinMap_of_resolvePin {b : BoardProfile} {pin : Pin} {t : Timer} {ch : Channel}
    (h : resolvePin b pin = some (t, ch)) : ⟨pin, t, ch⟩ ∈ b.pinMap := by
  obtain ⟨⟨p, u, d⟩, hfind, howner⟩ := Option.map_eq_some_iff.mp h
  obtain ⟨rfl, rfl⟩ := Prod.mk.inj howner
  obtain rfl : p = pin := by simpa using List.find?_some hfind
  exact List.mem_of_find?_eq_some hfind

/-- In a table as R69 asks a pin's row is the only one with the pin, so resolving the pin finds it. -/
theorem resolvePin_eq_some_iff {b : BoardProfile} (hwf : pinMapWf b.pinMap = true) (pin : Pin) (t : Timer)
    (ch : Channel) : resolvePin b pin = some (t, ch) ↔ ⟨pin, t, ch⟩ ∈ b.pinMap := by
  refine ⟨mem_pinMap_of_resolvePin, fun hrow => ?_⟩
  have hpins : (b.pinMap.map (·.pin)).Nodup := ((pinMapWf_iff _).mp hwf).1
  obtain ⟨row, hfind⟩ := Option.isSome_iff_exists.mp
    (List.find?_isSome (p := fun r : PinRow => r.pin == pin).mpr ⟨_, hrow, by simp⟩)
  obtain rfl : row = ⟨pin, t, ch⟩ := List.inj_on_of_nodup_map hpins (List.mem_of_find?_eq_some hfind) hrow
    (by simpa using List.find?_some hfind)
  simp [resolvePin, hfind]

/-- R69: no two pins map to one timer and channel. -/
theorem pin_eq_of_same_owner {b : BoardProfile} {p q : Pin} {x : Timer × Channel} (hwf : pinMapWf b.pinMap = true)
    (hp : resolvePin b p = some x) (hq : resolvePin b q = some x) : p = q := by
  have howners : (b.pinMap.map fun r => (r.timer, r.channel)).Nodup := ((pinMapWf_iff _).mp hwf).2
  have hrows : (⟨p, x.1, x.2⟩ : PinRow) = ⟨q, x.1, x.2⟩ :=
    List.inj_on_of_nodup_map howners (mem_pinMap_of_resolvePin hp) (mem_pinMap_of_resolvePin hq) rfl
  exact congrArg PinRow.pin hrows

theorem uno_pinMapWf : pinMapWf uno328p.pinMap = true := by decide

/-- Settles O10: a pin resolves to an owner exactly where the table has that row, and each owner has one row. -/
theorem pinsOwnDistinctChannels : Obligations.PinsOwnDistinctChannels := by
  refine ⟨fun b p q x hwf hp hq => pin_eq_of_same_owner hwf hp hq, by decide, fun p t ch => ?_⟩
  rw [resolvePin_eq_some_iff uno_pinMapWf]
  simp [uno328p, unoPinMap]

/-! ### RESOLVE and the pin check -/

theorem resolvePlan_none {b : BoardProfile} {pin : Pin} (h : resolvePin b pin = none) :
    resolvePlan b pin = rejectPlan .invalidPin := by
  simp [resolvePlan, h]

theorem resolvePlan_some {b : BoardProfile} {pin : Pin} {o : Timer × Channel} (h : resolvePin b pin = some o) :
    resolvePlan b pin = ⟨none, [], ⟨.ok, none, some o⟩⟩ := by
  simp [resolvePlan, h]

/-- A command on no timer that does not answer Unsupported loads RESULT and empties the trace, nothing else (R30). -/
theorem runPlan_onNoTimer {x : Answer} (h : x.status ≠ .unsupported) (s : State) :
    runPlan ⟨none, [], x⟩ s = .next { s with trace := [], result := resultWord x } := by
  simp [runPlan, complete, h]

/-- A command with a pin the profile lacks ends at the pin check (R71). -/
theorem runPlan_invalidPin (s : State) :
    runPlan (rejectPlan .invalidPin) s = .next { s with trace := [], result := 1 } :=
  runPlan_onNoTimer (x := raised .invalidPin) (by simp [raised]) s

/-- Settles O8: RESOLVE is on no timer, so it completes whatever is in progress. -/
theorem resolveAnswersTheOwner : Obligations.ResolveAnswersTheOwner := by
  intro s pin
  refine ⟨fun t ch hres => ?owner, fun hres => ?noOwner⟩
  case owner =>
    rw [exec_eq_runPlan, planOf, resolvePlan_some hres, runPlan_onNoTimer (by simp)]
    cases t <;> cases ch <;> rfl
  case noOwner => rw [exec_eq_runPlan, planOf, resolvePlan_none hres, runPlan_invalidPin]

/-- Every command that acts on its pin's timer begins with the pin check (R71). -/
theorem planOf_unknownPin {b : BoardProfile} {i : Instr} {pin : Pin} (hpin : timerPin i = some pin)
    (hres : resolvePin b pin = none) : planOf b i = rejectPlan .invalidPin := by
  cases i <;> cases hpin <;> exact planAt_none _ hres

/-- Settles O9: each of the commands runs the plan that rejects its pin. -/
theorem unknownPinIsInvalidPin : Obligations.UnknownPinIsInvalidPin := by
  intro s pin m a o f p hres i hi
  have hplan : planOf s.board i = rejectPlan .invalidPin := by
    rcases List.mem_cons.mp hi with rfl | hi
    · exact resolvePlan_none hres
    · have hpin : ∀ j ∈ [Instr.setmode pin m, .setadv pin m a, .setfreq pin f, .setduty pin p, .setout pin o,
          .apply pin m a o p f], timerPin j = some pin := by simp [timerPin]
      exact planOf_unknownPin (hpin i hi) hres
  rw [exec_eq_runPlan, hplan, runPlan_invalidPin]

/-! ### Two pins of one timer -/

/-- A command that reads of its pin the timer alone is the same command for every pin of the timer (R72). -/
theorem planAt_sameTimer {b : BoardProfile} {p q : Pin} {t : Timer} {c d : Channel} (f : Timer → Plan)
    (hp : resolvePin b p = some (t, c)) (hq : resolvePin b q = some (t, d)) :
    planAt b p (fun u _ => f u) = planAt b q fun u _ => f u := by
  rw [planAt_some _ hp, planAt_some _ hq]

/-- Settles O11: SETMODE, SETADV and SETFREQ read of their pin the timer alone. -/
theorem pinsShareTheirTimersModeAndFrequency : Obligations.PinsShareTheirTimersModeAndFrequency := by
  intro s p q t c d m a f hp hq
  simp only [exec_eq_runPlan, planOf]
  have same (f : Timer → Plan) := congrArg (runPlan · s) (planAt_sameTimer f hp hq)
  exact ⟨same _, same _, same _⟩

end Sys2Proof.Machine
end

section
/-! SETMODE and SETADV (R73 to R86): a command on an idle timer whose tables are there ends as its accesses say; the
overlay of a refinement on its base pattern is the write of the refinement to WGM; and the tables of UNO328P. -/

namespace Sys2Proof.Machine

/-! ### The trace of a list of accesses -/

/-- The events of accesses made one after the other (R10, R44). -/
def eventsOf (b : BoardProfile) (ts : Timers) (as : List Access) : List Event := (performAll b (ts, []) as).2

theorem eventsOf_append (b : BoardProfile) (ts : Timers) (as bs : List Access) :
    eventsOf b ts (as ++ bs) = eventsOf b ts as ++ eventsOf b (regsAfter b ts as) bs := by
  rw [eventsOf, performAll_append, performAll_trace]
  rfl

/-- The events of `WGM(t) <- w`: one write of each control register, of the value it ends with (R73). -/
theorem eventsOf_wgm (b : BoardProfile) (ts : Timers) (t : Timer) (w : BitVec 4) :
    eventsOf b ts (wgmAccesses t w)
      = [.wrote (regA t) (readReg (regsAfter b ts (wgmAccesses t w)) (regA t)),
        .wrote (regB t) (readReg (regsAfter b ts (wgmAccesses t w)) (regB t))] :=
  congrArg Prod.snd (wgmAccesses_spec b ts t w).1

theorem keepsAllButWgm_regsAfter_wgm (b : BoardProfile) (ts : Timers) (t : Timer) (w : BitVec 4) :
    KeepsAllButWgm t ts (regsAfter b ts (wgmAccesses t w)) :=
  (wgmAccesses_spec b ts t w).2.2

theorem keepsAllButWgm_trans {t : Timer} {ts us vs : Timers} (h : KeepsAllButWgm t ts us)
    (h' : KeepsAllButWgm t us vs) : KeepsAllButWgm t ts vs := by
  obtain ⟨htimers, hcs, hcom, hocr, hunowned⟩ := h
  obtain ⟨htimers', hcs', hcom', hocr', hunowned'⟩ := h'
  exact ⟨fun u hu => (htimers' u hu).trans (htimers u hu), hcs'.trans hcs, fun ch => (hcom' ch).trans (hcom ch),
    fun ch => (hocr' ch).trans (hocr ch), fun c => (hunowned' c).trans (hunowned c)⟩

/-! ### Commands that complete OK -/

/-- `s` with the accesses made and answer OK (R10, R30). -/
def completedOk (s : State) (as : List Access) : State :=
  { s with timers := regsAfter s.board s.timers as, trace := eventsOf s.board s.timers as, result := 0 }

theorem runPlan_okBody {s : State} {t : Timer} (as : List Access) (h : isBusy s t = false) :
    runPlan (bodyPlan t ⟨as, .ok⟩) s = .next (completedOk s as) := by
  rw [runPlan_body _ h]
  simp [complete, completedOk, regsAfter, eventsOf, raised, resultWord, stageField, ownerField, statusCode]

theorem setmodeBody_named (b : BoardProfile) (t : Timer) {mode : BitVec 3} {m : WaveformMode}
    (h : modeOfCode mode = some m) : setmodeBody b t mode = ⟨wgmAccesses t (basePattern b t m), .ok⟩ := by
  simp [setmodeBody, h]

section
variable {b : BoardProfile} {t : Timer} {mode setting : BitVec 3} {m : WaveformMode} {a : AdvancedModeSetting}
  (hmode : modeOfCode mode = some m) (hset : settingOfCode setting = some a)
include hmode hset

theorem setadvBody_plain (h : refinement b t m a = none) : setadvBody b t mode setting = setmodeBody b t mode := by
  simp [setadvBody, setmodeBody, hmode, hset, h]

theorem setadvBody_refined {r : BitVec 4} (h : refinement b t m a = some r) :
    setadvBody b t mode setting
      = ⟨wgmAccesses t (basePattern b t m) ++ overlayAccesses t (basePattern b t m) r, .ok⟩ := by
  simp [setadvBody, hmode, hset, h]

end

/-- SETMODE and SETADV on a pin whose timer's tables are there are their bodies (R74, R79). -/
theorem planOf_implemented {b : BoardProfile} {pin : Pin} {t : Timer} {ch : Channel}
    (hres : resolvePin b pin = some (t, ch)) (himpl : b.modeImpl.get t = true) (mode setting : BitVec 3) :
    planOf b (.setmode pin mode) = bodyPlan t (setmodeBody b t mode)
      ∧ planOf b (.setadv pin mode setting) = bodyPlan t (setadvBody b t mode setting) := by
  simp [planOf, setmodePlan, setadvPlan, planAt_some _ hres, whenImpl, himpl]

section
variable {s : State} {pin : Pin} {mode setting : BitVec 3} {t : Timer} {ch : Channel} {m : WaveformMode}
  {a : AdvancedModeSetting} (hres : resolvePin s.board pin = some (t, ch)) (hfree : isBusy s t = false)
  (himpl : s.board.modeImpl.get t = true) (hmode : modeOfCode mode = some m)
include hres hfree himpl hmode

/-- SETMODE with a named mode writes its base pattern to WGM and answers OK (R74, R75). -/
theorem exec_setmode_named :
    exec (.setmode pin mode) s = .next (completedOk s (wgmAccesses t (basePattern s.board t m))) := by
  rw [exec_eq_runPlan, (planOf_implemented hres himpl mode 0).1, setmodeBody_named _ _ hmode, runPlan_okBody _ hfree]

/-- SETADV with a setting that does not apply makes the accesses of SETMODE and answers OK (R81). -/
theorem exec_setadv_plain (hset : settingOfCode setting = some a) (h : refinement s.board t m a = none) :
    exec (.setadv pin mode setting) s = .next (completedOk s (wgmAccesses t (basePattern s.board t m))) := by
  rw [exec_eq_runPlan, (planOf_implemented hres himpl mode setting).2, setadvBody_plain hmode hset h,
    setmodeBody_named _ _ hmode, runPlan_okBody _ hfree]

/-- SETADV with a refinement overlays it on the base pattern and answers OK (R79). -/
theorem exec_setadv_refined {r : BitVec 4} (hset : settingOfCode setting = some a)
    (h : refinement s.board t m a = some r) :
    exec (.setadv pin mode setting) s = .next (completedOk s
      (wgmAccesses t (basePattern s.board t m) ++ overlayAccesses t (basePattern s.board t m) r)) := by
  rw [exec_eq_runPlan, (planOf_implemented hres himpl mode setting).2, setadvBody_refined hmode hset h,
    runPlan_okBody _ hfree]

/-- What SETMODE with a named mode leaves: the base pattern in WGM, all else as it was (R73 to R75, R78). -/
theorem exec_setmode_leaves :
    ∃ us, exec (.setmode pin mode) s = .next { s with
          timers := us, result := 0
          trace := [.wrote (regA t) (readReg us (regA t)), .wrote (regB t) (readReg us (regB t))] }
        ∧ wgmField us t = basePattern s.board t m &&& wgmMask t ∧ KeepsAllButWgm t s.timers us := by
  refine ⟨_, ?_, wgmField_regsAfter_wgm s.board s.timers t _, keepsAllButWgm_regsAfter_wgm ..⟩
  rw [exec_setmode_named hres hfree himpl hmode, completedOk, eventsOf_wgm]

end

/-! ### SETMODE -/

/-- Settles O12: the base pattern of a mode the table has is its entry. -/
theorem setmodeWritesTheModePattern : Obligations.SetmodeWritesTheModePattern := by
  intro s pin mode t ch m w hres hfree himpl hmode hentry
  have hbase : basePattern s.board t m = w := by simp [basePattern, hentry]
  exact hbase ▸ exec_setmode_leaves hres hfree himpl hmode

/-- PFC on T0 and T2 is the only mode UNO328P lacks (R76, R77). -/
theorem uno_mode_lacking_iff (t : Timer) (m : WaveformMode) :
    (uno328p.modeTable.get t).get m = none ↔ m = .pfc ∧ t ≠ .t1 := by
  cases t <;> cases m <;> decide

/-- Settles O13: the base pattern of a mode the table lacks is 0. -/
theorem setmodeSafeDefaultClearsTheMode : Obligations.SetmodeSafeDefaultClearsTheMode := by
  refine ⟨fun s pin mode t ch m hres hfree himpl hmode hentry => ?_, uno_mode_lacking_iff⟩
  have hbase : basePattern s.board t m &&& wgmMask t = 0 := by simp [basePattern, hentry]
  exact hbase ▸ exec_setmode_leaves hres hfree himpl hmode

/-! ### Mode tables that are not there -/

/-- The commands with a mode part, on a pin whose timer's mode tables are not there (R86). -/
theorem planOf_unimplemented {b : BoardProfile} {pin : Pin} {t : Timer} {ch : Channel}
    (hres : resolvePin b pin = some (t, ch)) (himpl : b.modeImpl.get t = false) (m a o : BitVec 3) (f : BitVec 5)
    (p : BitVec 7) :
    ∀ i ∈ [Instr.setmode pin m, .setadv pin m a, .apply pin m a o p f],
      planOf b i = bodyPlan t ⟨[], .unsupported⟩ := by
  simp [planOf, setmodePlan, setadvPlan, applyPlan, planAt_some _ hres, whenImpl, himpl, bodyPlan]

/-- A command whose body ends Unsupported with no access loads RESULT, empties the trace and sets the mark (R118). -/
theorem runPlan_unsupported {s : State} {t : Timer} (h : isBusy s t = false) :
    runPlan (bodyPlan t ⟨[], .unsupported⟩) s = .next { s with trace := [], result := 5, refusalMark := true } := by
  simp [runPlan_body _ h, complete, raised, resultWord, stageField, ownerField, statusCode]

/-- Settles O15: the pin check comes first, the table check next, and neither makes an access. -/
theorem unimplementedModeTablesAreUnsupported : Obligations.UnimplementedModeTablesAreUnsupported := by
  refine ⟨fun s pin m a o f p i hi => ⟨fun hres => ?invalidPin, fun t ch hres hfree himpl => ?unsupported⟩, ?uno⟩
  case invalidPin =>
    have hpin : ∀ j ∈ [Instr.setmode pin m, .setadv pin m a, .apply pin m a o p f], timerPin j = some pin := by
      simp [timerPin]
    rw [exec_eq_runPlan, planOf_unknownPin (hpin i hi) hres, runPlan_invalidPin]
  case unsupported =>
    rw [exec_eq_runPlan, planOf_unimplemented hres himpl m a o f p i hi, runPlan_unsupported hfree]
  case uno => exact fun t => by cases t <;> rfl

/-! ### The overlay of SETADV -/

/-- The low WGM bits where CTRL_A holds them (R20). -/
theorem loBits_wgmField (ts : Timers) (t : Timer) : loBits (wgmField ts t) = (ts.get t).ctrlA &&& 0b00000011 := by
  ext i hi
  cases t <;> interval_cases i <;> simp [wgmField, loBits]

/-- The high WGM bits where CTRL_B holds them (R20). -/
theorem hiBits_wgmField (ts : Timers) (t : Timer) : hiBits t (wgmField ts t) = (ts.get t).ctrlB &&& hiMask t := by
  ext i hi
  cases t <;> interval_cases i <;> simp [wgmField, hiBits, hiMask]

/-- The bit of a pattern that WGM has no place for is in neither register (R20). -/
theorem placed_and_wgmMask (t : Timer) (w : BitVec 4) :
    loBits (w &&& wgmMask t) = loBits w ∧ hiBits t (w &&& wgmMask t) = hiBits t w := by
  revert w; cases t <;> decide

/-- With a pattern in WGM its low bits are in CTRL_A and its high bits in CTRL_B (R20). -/
theorem ctrl_of_wgmField {ts : Timers} {t : Timer} {w : BitVec 4} (h : wgmField ts t = w &&& wgmMask t) :
    (ts.get t).ctrlA &&& 0b00000011 = loBits w ∧ (ts.get t).ctrlB &&& hiMask t = hiBits t w := by
  obtain ⟨hlo, hhi⟩ := placed_and_wgmMask t w
  rw [← loBits_wgmField, ← hiBits_wgmField, h]
  exact ⟨hlo, hhi⟩

/-- Of a byte whose bits under `mask` are `p`, clearing those only `p` has and setting those only `q` has writes `q` under
the mask. -/
theorem overlay_byte {x mask p : Byte} (q : Byte) (h : x &&& mask = p) :
    (x &&& ~~~(p &&& ~~~q)) ||| (q &&& ~~~p) = (x &&& ~~~mask) ||| q := by
  subst h
  ext i hi
  simp only [BitVec.getElem_and, BitVec.getElem_or, BitVec.getElem_not]
  cases x[i] <;> cases mask[i] <;> cases q[i] <;> rfl

theorem loBits_and_not (v w : BitVec 4) : loBits (v &&& ~~~w) = loBits v &&& ~~~(loBits w) := by
  revert v w; decide

theorem hiBits_and_not (t : Timer) (v w : BitVec 4) : hiBits t (v &&& ~~~w) = hiBits t v &&& ~~~(hiBits t w) := by
  revert v w; cases t <;> decide

/-- Over its base pattern in WGM, the overlay of `r` leaves the registers as the write of `r` to WGM does (R79, R80). -/
theorem regsAfter_overlay_eq_wgm (b : BoardProfile) {ts : Timers} {t : Timer} {base : BitVec 4} (r : BitVec 4)
    (h : wgmField ts t = base &&& wgmMask t) :
    regsAfter b ts (overlayAccesses t base r) = regsAfter b ts (wgmAccesses t r) := by
  obtain ⟨hlo, hhi⟩ := ctrl_of_wgmField h
  rw [regsAfter_overlay]
  simp only [regsAfter, wgmRmws, wgmAccesses, performAll_cons, performAll_nil, perform_rmw_a, perform_rmw_b,
    perTimer_get_set_same, loBits_and_not, hiBits_and_not, overlay_byte _ hlo, overlay_byte _ hhi]

/-- The overlay's RMWs, by where the refinement differs from the base pattern (R79). -/
theorem overlay_changes_iff (t : Timer) (base r : BitVec 4) :
    (loBits ((r &&& ~~~base) ||| (base &&& ~~~r)) = 0 ↔ (r ^^^ base) &&& 0b0011 = 0)
      ∧ (hiBits t ((r &&& ~~~base) ||| (base &&& ~~~r)) = 0 ↔ (r ^^^ base) &&& wgmMask t &&& 0b1100 = 0) := by
  revert base r; cases t <;> decide

/-- The events of an RMW of CTRL_A and one of CTRL_B, either of which may be left out: each made writes the value its
register ends with. -/
theorem eventsOf_ite_rmws (b : BoardProfile) (ts : Timers) (t : Timer) (clrA stA clrB stB : Byte) (p q : Prop)
    [Decidable p] [Decidable q] :
    (let as : List Access := (if p then [] else [.rmw t .a clrA stA]) ++ (if q then [] else [.rmw t .b clrB stB])
     eventsOf b ts as
        = (if p then [] else [.wrote (regA t) (readReg (regsAfter b ts as) (regA t))])
          ++ (if q then [] else [.wrote (regB t) (readReg (regsAfter b ts as) (regB t))])) := by
  by_cases hp : p <;> by_cases hq : q <;>
    simp [hp, hq, eventsOf, regsAfter, perform_rmw_a, perform_rmw_b, readReg]

theorem eventsOf_overlay (b : BoardProfile) (ts : Timers) (t : Timer) (base r : BitVec 4) :
    eventsOf b ts (overlayAccesses t base r)
      = (if (r ^^^ base) &&& 0b0011 = 0 then []
          else [.wrote (regA t) (readReg (regsAfter b ts (overlayAccesses t base r)) (regA t))])
        ++ (if (r ^^^ base) &&& wgmMask t &&& 0b1100 = 0 then []
          else [.wrote (regB t) (readReg (regsAfter b ts (overlayAccesses t base r)) (regB t))]) := by
  obtain ⟨hlo, hhi⟩ := overlay_changes_iff t base r
  simp only [← hlo, ← hhi]
  exact eventsOf_ite_rmws b ts t ..

/-! ### SETADV -/

/-- The registers after a refined SETADV are those after SETMODE with the refinement written to WGM (R80). -/
theorem regsAfter_refined (b : BoardProfile) (ts : Timers) (t : Timer) (base r : BitVec 4) :
    regsAfter b ts (wgmAccesses t base ++ overlayAccesses t base r)
      = regsAfter b (regsAfter b ts (wgmAccesses t base)) (wgmAccesses t r) := by
  rw [regsAfter_append, regsAfter_overlay_eq_wgm b r (wgmField_regsAfter_wgm b ts t base)]

/-- Settles O16: the overlay on the base pattern that SETMODE leaves, as its events and as a write of WGM. -/
theorem setadvEndsInTheRefinement : Obligations.SetadvEndsInTheRefinement := by
  intro s pin mode setting t ch m a r hres hfree himpl hmode hset hr
  have hexec := exec_setadv_refined hres hfree himpl hmode hset hr
  rw [completedOk, eventsOf_append, eventsOf_overlay, ← regsAfter_append, ← List.append_assoc] at hexec
  refine ⟨_, _, exec_setmode_named hres hfree himpl hmode, hexec, ?wgm, ?keeps⟩ <;> rw [regsAfter_refined]
  case wgm => exact wgmField_regsAfter_wgm ..
  case keeps => exact keepsAllButWgm_trans (keepsAllButWgm_regsAfter_wgm ..) (keepsAllButWgm_regsAfter_wgm ..)

/-- Settles O17: SETADV then runs the body of SETMODE. -/
theorem setadvWithoutRefinementIsSetmode : Obligations.SetadvWithoutRefinementIsSetmode := by
  intro s pin mode setting t ch m a hres hfree himpl hmode hset hr
  exact ⟨_, exec_setmode_named hres hfree himpl hmode, exec_setadv_plain hres hfree himpl hmode hset hr, rfl,
    wgmField_regsAfter_wgm ..⟩

/-- Settles O18: without a refinement SETADV is SETMODE; with one its overlay is a write of WGM. -/
theorem setadvIsSetmodeThenOverlay : Obligations.SetadvIsSetmodeThenOverlay := by
  intro s pin mode setting t ch m a hres hfree himpl hmode hset
  have hsetmode := exec_setmode_named hres hfree himpl hmode
  cases hr : refinement s.board t m a with
  | none => exact ⟨_, _, hsetmode, exec_setadv_plain hres hfree himpl hmode hset hr, rfl⟩
  | some r =>
    exact ⟨_, _, hsetmode, exec_setadv_refined hres hfree himpl hmode hset hr, regsAfter_refined ..⟩

/-! ### The refinements of UNO328P -/

/-- Settles O19: the rows of R84 by evaluation, and the combinations with a refinement timer by timer, mode by mode and
setting by setting. -/
theorem unoOverlayWritesAreThoseOfTheTable : Obligations.UnoOverlayWritesAreThoseOfTheTable := by
  refine ⟨?rowsT0T2, ?rowsT1, fun t m a => ?noOther⟩
  case rowsT0T2 => decide
  case rowsT1 => decide
  case noOther => cases t <;> cases m <;> cases a <;> decide

end Sys2Proof.Machine
end

section
/-! SETFREQ (R87 to R94): the two accesses of its body on CS and on the trace; a command on an idle timer whose table is
there ends as its body says; and the timers whose table is not there. -/

namespace Sys2Proof.Machine

/-! ### The accesses of the body -/

/-- `CS(t) <- 0`, the unconditional clear (R88, R89). -/
def clearCs (t : Timer) : Access := .rmw t .b 0b00000111 0

/-- The RMW that sets a choice's pattern in CS after the clear (R88). -/
def setCs (t : Timer) (c : BitVec 3) : Access := .rmw t .b 0 (c.setWidth 8)

theorem setfreqBody_lacking {b : BoardProfile} {t : Timer} {freq : BitVec 5} (h : csPattern b t freq = none) :
    setfreqBody b t freq = ⟨[clearCs t], .invalidFrequency⟩ := by
  simp [setfreqBody, clearCs, h]

theorem setfreqBody_named {b : BoardProfile} {t : Timer} {freq : BitVec 5} {c : BitVec 3}
    (h : csPattern b t freq = some c) : setfreqBody b t freq = ⟨[clearCs t] ++ [setCs t c], .ok⟩ := by
  simp [setfreqBody, clearCs, setCs, h]

/-- The clear is a write whatever CS holds: the event carries what CTRL_B held, less CS (R89). -/
theorem eventsOf_clearCs (b : BoardProfile) (ts : Timers) (t : Timer) :
    eventsOf b ts [clearCs t] = [.wrote (regB t) (readReg ts (regB t) &&& 0x00F8)] := by
  simp [eventsOf, clearCs, perform_rmw_b, readReg]

/-- The clear's event is the value CTRL_B ends with. -/
theorem eventsOf_clearCs_after (b : BoardProfile) (ts : Timers) (t : Timer) :
    eventsOf b ts [clearCs t] = [.wrote (regB t) (readReg (regsAfter b ts [clearCs t]) (regB t))] :=
  congrArg Prod.snd (csAccess_spec b ts t 7 0).1

/-- The clear and then the set are two events, the second of the value CTRL_B ends with (R88). -/
theorem eventsOf_clearCs_setCs (b : BoardProfile) (ts : Timers) (t : Timer) (c : BitVec 3) :
    eventsOf b ts ([clearCs t] ++ [setCs t c])
      = [.wrote (regB t) (readReg ts (regB t) &&& 0x00F8),
        .wrote (regB t) (readReg (regsAfter b ts ([clearCs t] ++ [setCs t c])) (regB t))] := by
  have hset : eventsOf b (regsAfter b ts [clearCs t]) [setCs t c] = _ := congrArg Prod.snd (csAccess_spec b _ t 0 c).1
  rw [eventsOf_append, eventsOf_clearCs, hset, regsAfter_append]
  rfl

theorem keepsAllButCs_trans {t : Timer} {ts us vs : Timers} (h : KeepsAllButCs t ts us) (h' : KeepsAllButCs t us vs) :
    KeepsAllButCs t ts vs := by
  obtain ⟨htimers, hwgm, hcom, hocr, hunowned⟩ := h
  obtain ⟨htimers', hwgm', hcom', hocr', hunowned'⟩ := h'
  exact ⟨fun u hu => (htimers' u hu).trans (htimers u hu), hwgm'.trans hwgm, fun ch => (hcom' ch).trans (hcom ch),
    fun ch => (hocr' ch).trans (hocr ch), fun c => (hunowned' c).trans (hunowned c)⟩

/-- The clear leaves 0 in CS and all else as it was (R87, R89). -/
theorem clearCs_leaves (b : BoardProfile) (ts : Timers) (t : Timer) :
    csField (regsAfter b ts [clearCs t]) t = 0 ∧ KeepsAllButCs t ts (regsAfter b ts [clearCs t]) := by
  obtain ⟨-, hcs, hkeeps⟩ := csAccess_spec b ts t 7 0
  have hclear : ∀ x : BitVec 3, (x &&& ~~~7) ||| 0 = 0 := by decide
  exact ⟨hcs.trans (hclear _), hkeeps⟩

/-- The clear and then the set leave the pattern in CS and all else as it was (R87, R88). -/
theorem clearCs_setCs_leaves (b : BoardProfile) (ts : Timers) (t : Timer) (c : BitVec 3) :
    csField (regsAfter b ts ([clearCs t] ++ [setCs t c])) t = c
      ∧ KeepsAllButCs t ts (regsAfter b ts ([clearCs t] ++ [setCs t c])) := by
  obtain ⟨hzero, hkeeps⟩ := clearCs_leaves b ts t
  obtain ⟨-, hcs, hkeeps'⟩ := csAccess_spec b (regsAfter b ts [clearCs t]) t 0 c
  have hset : ∀ x : BitVec 3, (0 &&& ~~~0) ||| x = x := by decide
  rw [hzero, hset] at hcs
  rw [regsAfter_append]
  exact ⟨hcs, keepsAllButCs_trans hkeeps hkeeps'⟩

/-- The clear takes back every earlier RMW of CS. -/
theorem regsAfter_rmwCs_clearCs (b : BoardProfile) (ts : Timers) (t : Timer) (clr st : BitVec 3) :
    regsAfter b (regsAfter b ts [.rmw t .b (clr.setWidth 8) (st.setWidth 8)]) [clearCs t]
      = regsAfter b ts [clearCs t] := by
  have hbits (x : Byte) :
      ((x &&& ~~~(clr.setWidth 8)) ||| st.setWidth 8) &&& 0xF8#8 = x &&& 0xF8#8 := by
    ext i hi
    interval_cases i <;> simp
  simp [regsAfter, clearCs, perform_rmw_b, hbits]

/-- The clear takes back every earlier SETFREQ, accepted or not (R92). -/
theorem regsAfter_setfreqBody_clearCs (b : BoardProfile) (ts : Timers) (t : Timer) (freq : BitVec 5) :
    regsAfter b (regsAfter b ts (setfreqBody b t freq).accesses) [clearCs t] = regsAfter b ts [clearCs t] := by
  have hagain := regsAfter_rmwCs_clearCs b ts t 7 0
  cases hc : csPattern b t freq with
  | none => exact setfreqBody_lacking hc ▸ hagain
  | some c =>
    rw [setfreqBody_named hc, regsAfter_append]
    exact (regsAfter_rmwCs_clearCs b _ t 0 c).trans hagain

/-! ### The command -/

/-- `s` with a body's accesses made and its status answered (R10, R30). -/
def completedAs (s : State) (x : Body) : State :=
  { s with timers := regsAfter s.board s.timers x.accesses, trace := eventsOf s.board s.timers x.accesses
           result := (statusCode x.status).setWidth 32 }

theorem runPlan_supportedBody {s : State} {t : Timer} {x : Body} (hfree : isBusy s t = false)
    (h : x.status ≠ .unsupported) : runPlan (bodyPlan t x) s = .next (completedAs s x) := by
  simp [runPlan_body x hfree, complete, completedAs, regsAfter, eventsOf, raised, resultWord, stageField, ownerField, h]

/-- A code has a pattern where it names a choice that the timer's table has (R91). -/
theorem csPattern_ne_none_iff (b : BoardProfile) (t : Timer) (freq : BitVec 5) :
    csPattern b t freq ≠ none ↔ ∃ f, freqOfCode freq = some f ∧ (b.freqTable.get t).get f ≠ none := by
  cases hf : freqOfCode freq <;> simp [csPattern, hf]

theorem csPattern_unnamed (b : BoardProfile) (t : Timer) {freq : BitVec 5} (h : freq = 0 ∨ 10 ≤ freq.toNat) :
    csPattern b t freq = none := by
  rcases h with rfl | h
  · rfl
  · exact csPattern_eq_none b t h

section
variable {s : State} {pin : Pin} {freq : BitVec 5} {t : Timer} {ch : Channel}
  (hres : resolvePin s.board pin = some (t, ch)) (hfree : isBusy s t = false)
  (himpl : s.board.freqImpl.get t = true)
include hres hfree himpl

/-- SETFREQ on an idle timer whose table is there completes as its body says (R88). -/
theorem exec_setfreq : exec (.setfreq pin freq) s = .next (completedAs s (setfreqBody s.board t freq)) := by
  have hplan : planOf s.board (.setfreq pin freq) = bodyPlan t (setfreqBody s.board t freq) := by
    simp [planOf, setfreqPlan, planAt_some _ hres, whenImpl, himpl]
  rw [exec_eq_runPlan, hplan, runPlan_supportedBody hfree (setfreqBody_supported _ _ _)]

/-- SETFREQ with a choice the timer lacks is the clear alone, and answers InvalidFrequency (R89, R91). -/
theorem exec_setfreq_lacking (h : csPattern s.board t freq = none) :
    exec (.setfreq pin freq) s = .next (completedAs s ⟨[clearCs t], .invalidFrequency⟩) := by
  rw [exec_setfreq hres hfree himpl, setfreqBody_lacking h]

/-- SETFREQ with a choice the timer has is the clear and then the set, and answers OK (R88). -/
theorem exec_setfreq_named {c : BitVec 3} (h : csPattern s.board t freq = some c) :
    exec (.setfreq pin freq) s = .next (completedAs s ⟨[clearCs t] ++ [setCs t c], .ok⟩) := by
  rw [exec_setfreq hres hfree himpl, setfreqBody_named h]

end

/-- Settles O20: the clear's event, then the set's, and the fields they leave. -/
theorem setfreqSelectsTheClock : Obligations.SetfreqSelectsTheClock := by
  intro s pin freq t ch c hres hfree himpl hc
  refine ⟨_, ?_, clearCs_setCs_leaves s.board s.timers t c⟩
  rw [exec_setfreq_named hres hfree himpl hc, completedAs, eventsOf_clearCs_setCs]
  rfl

/-- Settles O21: the clear alone. -/
theorem setfreqClearsTheClockThenRejects : Obligations.SetfreqClearsTheClockThenRejects := by
  intro s pin freq t ch hres hfree himpl hc
  refine ⟨_, ?_, clearCs_leaves s.board s.timers t⟩
  rw [exec_setfreq_lacking hres hfree himpl hc, completedAs, eventsOf_clearCs_after]
  rfl

/-- Settles O23: a code is accepted where the timer has a pattern for it, and else the clear stands alone. -/
theorem setfreqAcceptsExactlyTheTimersChoices : Obligations.SetfreqAcceptsExactlyTheTimersChoices := by
  intro s pin freq t ch hres hfree himpl
  have hhas := csPattern_ne_none_iff s.board t freq
  cases hc : csPattern s.board t freq with
  | none =>
    have hrejected : (2 : Word) ≠ 0 := by decide
    exact ⟨_, exec_setfreq_lacking hres hfree himpl hc, iff_of_false hrejected fun h => hhas.mpr h hc,
      fun _ => ⟨rfl, (clearCs_leaves s.board s.timers t).1⟩, fun _ => rfl⟩
  | some c =>
    have hne : csPattern s.board t freq ≠ none := by simp [hc]
    exact ⟨_, exec_setfreq_named hres hfree himpl hc, iff_of_true rfl (hhas.mp hne), absurd rfl,
      fun h => absurd (csPattern_unnamed s.board t h) hne⟩

/-- Settles O25: the second command begins with the clear, which takes back the first. -/
theorem setfreqOverwritesEarlierChoices : Obligations.SetfreqOverwritesEarlierChoices := by
  intro s pin f1 f2 t ch c hres hfree himpl hc
  refine ⟨_, _, _, exec_setfreq hres hfree himpl,
    exec_setfreq_named (s := completedAs s (setfreqBody s.board t f1)) hres hfree himpl hc,
    exec_setfreq_named hres hfree himpl hc, ?_⟩
  simp only [completedAs, regsAfter_append, regsAfter_setfreqBody_clearCs]

/-- Settles O22: both bodies begin with the clear, and InvalidFrequency is the answer of the clear alone. -/
theorem setfreqAlwaysClearsFirst : Obligations.SetfreqAlwaysClearsFirst := by
  refine fun s pin freq => ⟨fun t ch hres hfree himpl => ?valid, fun hres => ?invalidPin⟩
  case valid =>
    cases hc : csPattern s.board t freq with
    | none =>
      exact ⟨_, [], exec_setfreq_lacking hres hfree himpl hc, eventsOf_clearCs s.board s.timers t,
        fun _ => ⟨rfl, (clearCs_leaves s.board s.timers t).1⟩⟩
    | some c =>
      have haccepted : (0 : Word) ≠ 2 := by decide
      exact ⟨_, _, exec_setfreq_named hres hfree himpl hc, eventsOf_clearCs_setCs s.board s.timers t c,
        fun h => absurd h haccepted⟩
  case invalidPin => rw [exec_eq_runPlan, planOf_unknownPin rfl hres, runPlan_invalidPin]

/-! ### Frequency tables that are not there -/

/-- The commands with a frequency part, on a pin whose timer's frequency table is not there (R94). -/
theorem planOf_unimplementedFreq {b : BoardProfile} {pin : Pin} {t : Timer} {ch : Channel}
    (hres : resolvePin b pin = some (t, ch)) (himpl : b.freqImpl.get t = false) (m a o : BitVec 3) (f : BitVec 5)
    (p : BitVec 7) :
    ∀ i ∈ [Instr.setfreq pin f, .apply pin m a o p f], planOf b i = bodyPlan t ⟨[], .unsupported⟩ := by
  simp [planOf, setfreqPlan, applyPlan, planAt_some _ hres, whenImpl, himpl, bodyPlan]

/-- Settles O24: the pin check comes first, the table check next, and neither makes an access. -/
theorem unimplementedFrequencyTableIsUnsupported : Obligations.UnimplementedFrequencyTableIsUnsupported := by
  refine ⟨fun s pin m a o f p i hi => ⟨fun hres => ?invalidPin, fun t ch hres hfree himpl => ?unsupported⟩, ?uno⟩
  case invalidPin =>
    have hpin : ∀ j ∈ [Instr.setfreq pin f, .apply pin m a o p f], timerPin j = some pin := by simp [timerPin]
    rw [exec_eq_runPlan, planOf_unknownPin (hpin i hi) hres, runPlan_invalidPin]
  case unsupported =>
    rw [exec_eq_runPlan, planOf_unimplementedFreq hres himpl m a o f p i hi, runPlan_unsupported hfree]
  case uno => exact fun t => by cases t <;> rfl

end Sys2Proof.Machine
end

section
/-! SETDUTY (R95 to R102): its body on either side of 100, a command on an idle timer that ends as its body says, and the
scaling from a percentage to a compare value. -/

namespace Sys2Proof.Machine

/-! ### The body -/

/-- The compare value of a percentage, as SETDUTY writes it (R95). -/
def dutyWord (b : BoardProfile) (t : Timer) (duty : BitVec 7) : Half := BitVec.ofNat 16 (dutyValue b t duty.toNat)

theorem dutyWord_toNat (b : BoardProfile) (t : Timer) {duty : BitVec 7} (h : duty.toNat ≤ 100) :
    (dutyWord b t duty).toNat = duty.toNat * (2 ^ (b.width.get t).bits - 1) / 100 :=
  dutyValue_ofNat b t h

theorem dutyWord_le (b : BoardProfile) (t : Timer) {duty : BitVec 7} (h : duty.toNat ≤ 100) :
    (dutyWord b t duty).toNat ≤ maxCount b t :=
  (dutyValue_ofNat b t h).trans_le (dutyValue_le b t h)

theorem setdutyBody_accepted (b : BoardProfile) (t : Timer) (ch : Channel) {duty : BitVec 7} (h : duty.toNat ≤ 100) :
    setdutyBody b t ch duty = ⟨[.write ⟨t, .ocr ch⟩ (dutyWord b t duty)], .ok⟩ :=
  if_neg (Nat.not_lt.mpr h)

theorem setdutyBody_rejected (b : BoardProfile) (t : Timer) (ch : Channel) {duty : BitVec 7} (h : 100 < duty.toNat) :
    setdutyBody b t ch duty = ⟨[], .invalidDutyCycleValue⟩ :=
  if_pos h

/-! ### The command -/

/-- SETDUTY on an idle timer completes as its body says (R96). -/
theorem exec_setduty {s : State} {pin : Pin} {t : Timer} {ch : Channel} (hres : resolvePin s.board pin = some (t, ch))
    (hfree : isBusy s t = false) (duty : BitVec 7) :
    exec (.setduty pin duty) s = .next (completedAs s (setdutyBody s.board t ch duty)) := by
  have hplan : planOf s.board (.setduty pin duty) = bodyPlan t (setdutyBody s.board t ch duty) := planAt_some _ hres
  rw [exec_eq_runPlan, hplan, runPlan_supportedBody hfree (setdutyBody_supported _ _ _ _)]

/-- Settles O26: the body is one write of a value that fits, so the register holds it whole. -/
theorem setdutyWritesTheScaledValue : Obligations.SetdutyWritesTheScaledValue := by
  intro s pin p t ch hres hfree hp
  obtain ⟨hocr, hkeeps⟩ := ocrWrite_spec s.board s.timers t ch _ (dutyWord_le s.board t hp)
  refine ⟨_, _, ?_, dutyWord_toNat s.board t hp, hocr, hkeeps⟩
  rw [exec_setduty hres hfree, setdutyBody_accepted _ _ _ hp]
  rfl

/-- Settles O27: the pin check comes first, and a body above 100 makes no access. -/
theorem setdutyAboveHundredIsRejected : Obligations.SetdutyAboveHundredIsRejected := by
  refine fun s pin p hp => ⟨fun t ch hres hfree => ?rejected, fun hres => ?invalidPin⟩
  case rejected =>
    rw [exec_setduty hres hfree, setdutyBody_rejected _ _ _ hp]
    rfl
  case invalidPin => rw [exec_eq_runPlan, planOf_unknownPin rfl hres, runPlan_invalidPin]

/-! ### The scaling -/

theorem dutyValue_mono (b : BoardProfile) (t : Timer) : Monotone (dutyValue b t) := fun _ _ h =>
  Nat.div_le_div_right (Nat.mul_le_mul_right _ h)

theorem dutyValue_zero (b : BoardProfile) (t : Timer) : dutyValue b t 0 = 0 := by simp [dutyValue]

theorem dutyValue_hundred (b : BoardProfile) (t : Timer) : dutyValue b t 100 = maxCount b t :=
  Nat.mul_div_cancel_left _ (by decide)

/-- Settles O28: the scaling is a product divided by 100, so it grows with the percentage from 0 to `max(t)`. -/
theorem dutyScalingIsMonotoneAndBounded : Obligations.DutyScalingIsMonotoneAndBounded := by
  refine ⟨fun b t p q hpq hq => ?bounds, by decide, by decide, by decide⟩
  case bounds => exact ⟨dutyValue_mono b t hpq, dutyValue_le b t hq, dutyValue_zero b t, dutyValue_hundred b t⟩

end Sys2Proof.Machine
end

section
/-! SETOUT (R103 to R106): its body for a named code and for a code that names no output type, a command on an idle timer
that ends as its body says, and the registers and the event its one access leaves. -/

namespace Sys2Proof.Machine

/-! ### The body -/

theorem setoutBody_named (b : BoardProfile) (t : Timer) (ch : Channel) {otype : BitVec 3} {o : OutputType}
    (h : outputOfCode otype = some o) : setoutBody b t ch otype = ⟨[comAccess t ch (comPattern b t ch o)], .ok⟩ := by
  simp [setoutBody, h]

theorem setoutBody_unnamed (b : BoardProfile) (t : Timer) (ch : Channel) {otype : BitVec 3}
    (h : outputOfCode otype = none) : setoutBody b t ch otype = ⟨[], .undefinedValue⟩ := by
  simp [setoutBody, h]

/-- A type the channel's table has is written with the table's pattern (R103). -/
theorem comPattern_of_entry {b : BoardProfile} {t : Timer} {ch : Channel} {o : OutputType} {c : BitVec 2}
    (h : ((b.outTable.get t).get ch).get o = some c) : comPattern b t ch o = c := by
  simp [comPattern, h]

/-- A type the channel's table lacks is written as disconnected, the safe default (R105). -/
theorem comPattern_of_lacking {b : BoardProfile} {t : Timer} {ch : Channel} {o : OutputType}
    (h : ((b.outTable.get t).get ch).get o = none) : comPattern b t ch o = 0 := by
  simp [comPattern, h]

/-- The event of `COM(t, ch) <- m`: one write of CTRL_A, of the value it ends with (R103). -/
theorem eventsOf_com (b : BoardProfile) (ts : Timers) (t : Timer) (ch : Channel) (m : BitVec 2) :
    eventsOf b ts [comAccess t ch m]
      = [.wrote (regA t) (readReg (regsAfter b ts [comAccess t ch m]) (regA t))] :=
  congrArg Prod.snd (comAccess_spec b ts t ch m).1

/-! ### The command -/

section
variable {s : State} {pin : Pin} {otype : BitVec 3} {t : Timer} {ch : Channel}
  (hres : resolvePin s.board pin = some (t, ch)) (hfree : isBusy s t = false)
include hres hfree

/-- SETOUT on an idle timer completes as its body says (R103). -/
theorem exec_setout : exec (.setout pin otype) s = .next (completedAs s (setoutBody s.board t ch otype)) := by
  have hplan : planOf s.board (.setout pin otype) = bodyPlan t (setoutBody s.board t ch otype) := planAt_some _ hres
  rw [exec_eq_runPlan, hplan, runPlan_supportedBody hfree (setoutBody_supported _ _ _ _)]

/-- SETOUT with a named type leaves `comPattern` in COM, with or without a table entry, and all else as it was (R103,
R105, R106). -/
theorem exec_setout_leaves {o : OutputType} (hname : outputOfCode otype = some o) :
    ∃ us, exec (.setout pin otype) s = .next { s with
          timers := us, result := 0, trace := [.wrote (regA t) (readReg us (regA t))] }
      ∧ comField us t ch = comPattern s.board t ch o ∧ KeepsAllButCom t ch s.timers us := by
  refine ⟨_, ?_, (comAccess_spec s.board s.timers t ch (comPattern s.board t ch o)).2⟩
  rw [exec_setout hres hfree, setoutBody_named _ _ _ hname, completedAs, eventsOf_com]
  rfl

/-- SETOUT with a code that names no type makes no access and answers UndefinedValue (R103, R105). -/
theorem exec_setout_unnamed (hname : outputOfCode otype = none) :
    exec (.setout pin otype) s = .next { s with trace := [], result := 4 } := by
  rw [exec_setout hres hfree, setoutBody_unnamed _ _ _ hname]
  rfl

end

/-- The patterns of R104 stand in every channel's table of UNO328P. -/
theorem uno_outTable (t : Timer) (ch : Channel) :
    (uno328p.outTable.get t).get ch = ⟨some 0b00, some 0b01, some 0b10, some 0b11⟩ := by
  cases t <;> cases ch <;> rfl

/-- Settles O29: the pattern written is the table's entry; the tables of UNO328P have all four. -/
theorem setoutConnectsTheChannel : Obligations.SetoutConnectsTheChannel := by
  refine ⟨fun s pin otype t ch o c hres hfree hname hentry => ?connects, fun t ch => ?uno⟩
  case connects => exact comPattern_of_entry hentry ▸ exec_setout_leaves hres hfree hname
  case uno => rw [uno_outTable]; rfl

/-- Settles O30: a type with no entry is written as 0; a code that names no type makes no access. -/
theorem setoutSafeDefaultDisconnects : Obligations.SetoutSafeDefaultDisconnects := by
  refine fun s pin otype t ch hres hfree => ⟨fun o hname hentry => ?lacking, fun hname => ?unnamed⟩
  case lacking => exact comPattern_of_lacking hentry ▸ exec_setout_leaves hres hfree hname
  case unnamed => exact exec_setout_unnamed hres hfree hname

end Sys2Proof.Machine
end

section
/-! APPLY (R108 to R112): when each part ends OK and what it leaves; the command on an idle timer whose tables are there
makes its request and then its parts, up to the first that fails; and no other command makes a request. -/

namespace Sys2Proof.Machine

/-! ### When a part ends OK -/

theorem modeOfCode_ne_none_iff (c : BitVec 3) : modeOfCode c ≠ none ↔ c.toNat ≤ 4 := by
  revert c; decide

theorem settingOfCode_ne_none_iff (c : BitVec 3) : settingOfCode c ≠ none ↔ c.toNat ≤ 4 := by
  revert c; decide

theorem outputOfCode_ne_none_iff (c : BitVec 3) : outputOfCode c ≠ none ↔ c.toNat ≤ 3 := by
  revert c; decide

theorem setadvBody_status_of_le (b : BoardProfile) (t : Timer) {mode setting : BitVec 3} (hmode : mode.toNat ≤ 4)
    (hset : setting.toNat ≤ 4) : (setadvBody b t mode setting).status = .ok := by
  obtain ⟨m, hm⟩ := Option.ne_none_iff_exists'.mp ((modeOfCode_ne_none_iff mode).mpr hmode)
  obtain ⟨a, ha⟩ := Option.ne_none_iff_exists'.mp ((settingOfCode_ne_none_iff setting).mpr hset)
  simp [setadvBody, hm, ha]

theorem setfreqBody_status_of_pattern {b : BoardProfile} {t : Timer} {freq : BitVec 5} (h : csPattern b t freq ≠ none) :
    (setfreqBody b t freq).status = .ok := by
  obtain ⟨c, hc⟩ := Option.ne_none_iff_exists'.mp h
  rw [setfreqBody_named hc]

theorem setdutyBody_status_of_le (b : BoardProfile) (t : Timer) (ch : Channel) {duty : BitVec 7}
    (h : duty.toNat ≤ 100) : (setdutyBody b t ch duty).status = .ok := by
  rw [setdutyBody_accepted b t ch h]

theorem setoutBody_status_of_le (b : BoardProfile) (t : Timer) (ch : Channel) {otype : BitVec 3}
    (h : otype.toNat ≤ 3) : (setoutBody b t ch otype).status = .ok := by
  obtain ⟨o, ho⟩ := Option.ne_none_iff_exists'.mp ((outputOfCode_ne_none_iff otype).mpr h)
  rw [setoutBody_named b t ch ho]

/-! ### What an accepted part leaves -/

/-- An accepted SETADV part leaves its final pattern in WGM and all else as it was (R78, R79, R81). -/
theorem setadvBody_leaves (b : BoardProfile) (ts : Timers) (t : Timer) {mode setting : BitVec 3} {m : WaveformMode}
    {a : AdvancedModeSetting} (hmode : modeOfCode mode = some m) (hset : settingOfCode setting = some a) :
    wgmField (regsAfter b ts (setadvBody b t mode setting).accesses) t = finalPattern b t m a &&& wgmMask t
      ∧ KeepsAllButWgm t ts (regsAfter b ts (setadvBody b t mode setting).accesses) := by
  cases hr : refinement b t m a with
  | none =>
    rw [setadvBody_plain hmode hset hr, setmodeBody_named b t hmode, finalPattern, hr]
    exact ⟨wgmField_regsAfter_wgm .., keepsAllButWgm_regsAfter_wgm ..⟩
  | some r =>
    rw [setadvBody_refined hmode hset hr, regsAfter_refined, finalPattern, hr]
    exact ⟨wgmField_regsAfter_wgm ..,
      keepsAllButWgm_trans (keepsAllButWgm_regsAfter_wgm ..) (keepsAllButWgm_regsAfter_wgm ..)⟩

/-- An accepted SETFREQ part leaves its pattern in CS and all else as it was (R87, R88). -/
theorem setfreqBody_leaves {b : BoardProfile} (ts : Timers) {t : Timer} {freq : BitVec 5} {c : BitVec 3}
    (h : csPattern b t freq = some c) :
    csField (regsAfter b ts (setfreqBody b t freq).accesses) t = c
      ∧ KeepsAllButCs t ts (regsAfter b ts (setfreqBody b t freq).accesses) :=
  setfreqBody_named h ▸ clearCs_setCs_leaves b ts t c

/-- An accepted SETDUTY part leaves the scaled value in its compare register and all else as it was (R95, R98). -/
theorem setdutyBody_leaves (b : BoardProfile) (ts : Timers) (t : Timer) (ch : Channel) {duty : BitVec 7}
    (h : duty.toNat ≤ 100) :
    ocrField (regsAfter b ts (setdutyBody b t ch duty).accesses) t ch = dutyWord b t duty
      ∧ KeepsAllButOcr t ch ts (regsAfter b ts (setdutyBody b t ch duty).accesses) :=
  setdutyBody_accepted b t ch h ▸ ocrWrite_spec b ts t ch _ (dutyWord_le b t h)

/-- An accepted SETOUT part leaves its pattern in the channel's COM and all else as it was (R103, R106). -/
theorem setoutBody_leaves (b : BoardProfile) (ts : Timers) (t : Timer) (ch : Channel) {otype : BitVec 3}
    {o : OutputType} (h : outputOfCode otype = some o) :
    comField (regsAfter b ts (setoutBody b t ch otype).accesses) t ch = comPattern b t ch o
      ∧ KeepsAllButCom t ch ts (regsAfter b ts (setoutBody b t ch otype).accesses) :=
  setoutBody_named b t ch h ▸ (comAccess_spec b ts t ch _).2

/-! ### The parts one after the other -/

/-- Parts that all end OK make all their accesses and answer OK (R109, R110). -/
theorem runParts_allOk {xs : List (Stage × Body)} (h : ∀ x ∈ xs, x.2.status = .ok) :
    runParts xs = (xs.flatMap (·.2.accesses), okAnswer) := by
  induction xs with
  | nil => rfl
  | cons x xs ih =>
    obtain ⟨hx, hrest⟩ := List.forall_mem_cons.mp h
    simp [runParts, hx, ih hrest]

/-- The first part that does not end OK is the last, and the answer is its status and stage (R112). -/
theorem runParts_firstFailing {xs : List (Stage × Body)} {k : Stage} {x : Body} (rest : List (Stage × Body))
    (h : ∀ y ∈ xs, y.2.status = .ok) (hx : x.status ≠ .ok) :
    runParts (xs ++ (k, x) :: rest) = ((xs ++ [(k, x)]).flatMap (·.2.accesses), ⟨x.status, some k, none⟩) := by
  induction xs with
  | nil => simp [runParts, hx]
  | cons y xs ih =>
    obtain ⟨hy, hrest⟩ := List.forall_mem_cons.mp h
    simp [runParts, hy, ih hrest]

theorem ownAccesses_applyParts (b : BoardProfile) (t : Timer) (ch : Channel) (mode setting otype : BitVec 3)
    (duty : BitVec 7) (freq : BitVec 5) :
    OwnAccesses b t (runParts (applyParts b t ch mode setting otype duty freq)).1 :=
  (runParts_ok _ (by
    simp [applyParts, ownAccesses_setadvBody, ownAccesses_setfreqBody, ownAccesses_setdutyBody,
      ownAccesses_setoutBody])).1

theorem applyParts_supported (b : BoardProfile) (t : Timer) (ch : Channel) (mode setting otype : BitVec 3)
    (duty : BitVec 7) (freq : BitVec 5) :
    (runParts (applyParts b t ch mode setting otype duty freq)).2.status ≠ .unsupported :=
  runParts_supported _ (by
    simp [applyParts, setadvBody_supported, setfreqBody_supported, setdutyBody_supported, setoutBody_supported])

/-! ### The GPIO request (R111) -/

/-- Register accesses request no pin. -/
theorem eventsOf_noRequest {b : BoardProfile} {t : Timer} {as : List Access} (ts : Timers) (h : OwnAccesses b t as) :
    (eventsOf b ts as).any isRequest = false := by
  induction as generalizing ts with
  | nil => rfl
  | cons a as ih =>
    obtain ⟨ha, has⟩ := (ownAccesses_cons ..).mp h
    rw [← List.singleton_append, eventsOf_append, List.any_append, ih _ has, Bool.or_false]
    cases a with
    | gpio pin => cases ha
    | rmw u c clr st => rfl
    | write r v => rfl

/-- The request is an event of its own, before those of the accesses after it. -/
@[simp] theorem eventsOf_gpio (b : BoardProfile) (ts : Timers) (pin : Pin) (as : List Access) :
    eventsOf b ts (.gpio pin :: as) = .gpioOut pin :: eventsOf b ts as :=
  eventsOf_append b ts [.gpio pin] as

/-- APPLY on a pin whose timer's tables are there requests the pin and then makes its parts (R109, R111). -/
theorem planOf_apply {b : BoardProfile} {pin : Pin} {t : Timer} {ch : Channel} (hres : resolvePin b pin = some (t, ch))
    (hmode : b.modeImpl.get t = true) (hfreq : b.freqImpl.get t = true) (mode setting otype : BitVec 3) (p : BitVec 7)
    (freq : BitVec 5) :
    planOf b (.apply pin mode setting otype p freq)
      = ⟨some t, .gpio pin :: (runParts (applyParts b t ch mode setting otype p freq)).1,
          (runParts (applyParts b t ch mode setting otype p freq)).2⟩ := by
  simp [planOf, applyPlan, planAt_some _ hres, hmode, hfreq]

/-- A command that completes leaves the events of its plan's accesses as its trace (R30). -/
theorem trace_of_exec {i : Instr} {s s' : State} (h : exec i s = .next s') :
    s'.trace = eventsOf s.board s.timers (planOf s.board i).accesses := by
  obtain ⟨-, rfl⟩ := runPlan_next _ _ _ ((exec_eq_runPlan i s).symm.trans h)
  rfl

theorem ownAccesses_planAt {b : BoardProfile} {pin : Pin} {body : Timer → Channel → Body}
    (h : ∀ t ch, OwnAccesses b t (body t ch).accesses) :
    ∃ t, OwnAccesses b t (planAt b pin fun t ch => bodyPlan t (body t ch)).accesses := by
  cases hp : resolvePin b pin with
  | none => exact ⟨.t0, by simp [planAt_none _ hp, rejectPlan]⟩
  | some o => exact ⟨o.1, planAt_some _ hp ▸ h o.1 o.2⟩

/-- Every command but APPLY makes register accesses alone (R111). -/
theorem ownAccesses_planOf {i : Instr} (b : BoardProfile)
    (h : ∀ pin mode setting otype p freq, i ≠ .apply pin mode setting otype p freq) :
    ∃ t, OwnAccesses b t (planOf b i).accesses := by
  cases i with
  | resolve pin =>
    obtain ⟨-, hnone⟩ := planOk_resolve b pin
    rw [resolvePlan_timer] at hnone
    exact ⟨.t0, by simp [planOf, hnone]⟩
  | setmode pin mode => exact ownAccesses_planAt fun t _ => ownAccesses_whenImpl _ (ownAccesses_setmodeBody b t mode)
  | setadv pin mode setting =>
    exact ownAccesses_planAt fun t _ => ownAccesses_whenImpl _ (ownAccesses_setadvBody b t mode setting)
  | setfreq pin freq => exact ownAccesses_planAt fun t _ => ownAccesses_whenImpl _ (ownAccesses_setfreqBody b t freq)
  | setduty pin duty => exact ownAccesses_planAt fun t ch => ownAccesses_setdutyBody b t ch duty
  | setout pin otype => exact ownAccesses_planAt fun t ch => ownAccesses_setoutBody b t ch otype
  | apply pin mode setting otype duty freq => exact (h _ _ _ _ _ _ rfl).elim
  | setphase ignored => exact ⟨.t0, ownAccesses_nil ..⟩
  | reserved word => exact ⟨.t0, ownAccesses_nil ..⟩

/-- Settles O35: the request stands in front of APPLY's register accesses, and in no other plan. -/
theorem onlyApplyRequestsItsPin : Obligations.OnlyApplyRequestsItsPin := by
  intro i s s' h
  have htrace := trace_of_exec h
  refine ⟨?requests, ?noTables, ?invalidPin, fun hi => ?others⟩
  case requests =>
    rintro pin mode setting otype p freq t ch rfl hres hmode hfreq
    rw [planOf_apply hres hmode hfreq, eventsOf_gpio] at htrace
    exact ⟨_, htrace, eventsOf_noRequest _ (ownAccesses_applyParts ..)⟩
  case noTables =>
    rintro pin mode setting otype p freq t ch rfl hres (hmode | hfreq)
    · rwa [planOf_unimplemented hres hmode mode setting otype freq p _ (by simp)] at htrace
    · rwa [planOf_unimplementedFreq hres hfreq mode setting otype freq p _ (by simp)] at htrace
  case invalidPin =>
    rintro pin mode setting otype p freq rfl hres
    rwa [planOf_unknownPin rfl hres] at htrace
  case others =>
    obtain ⟨t, hown⟩ := ownAccesses_planOf s.board hi
    rw [htrace, eventsOf_noRequest _ hown]

/-! ### The command -/

/-- `s` with the pin requested, the accesses made and the answer given (R30, R109). -/
def appliedAs (s : State) (pin : Pin) (x : List Access × Answer) : State :=
  { s with timers := regsAfter s.board s.timers x.1, trace := .gpioOut pin :: eventsOf s.board s.timers x.1
           result := resultWord x.2 }

/-- `s` after each part as a command of its own, one after the other (R110). -/
def afterParts (s : State) : List (Stage × Body) → State
  | [] => s
  | x :: xs => afterParts (completedAs s x.2) xs

/-- The traces of the parts as commands of their own, joined (R110). -/
def tracesOfParts (s : State) : List (Stage × Body) → List Event
  | [] => []
  | x :: xs => (completedAs s x.2).trace ++ tracesOfParts (completedAs s x.2) xs

/-- Making the parts' accesses leaves what the parts as commands of their own leave, with their traces joined behind the
request (R109, R110). -/
theorem appliedAs_parts (s : State) (pin : Pin) (xs : List (Stage × Body)) (x : Answer) :
    appliedAs s pin (xs.flatMap (·.2.accesses), x)
      = { afterParts s xs with trace := .gpioOut pin :: tracesOfParts s xs, result := resultWord x } := by
  induction xs generalizing s with
  | nil => rfl
  | cons y xs ih =>
    have hrest := ih (completedAs s y.2)
    simp only [appliedAs, State.mk.injEq, List.cons.injEq, true_and] at hrest ⊢
    simpa [afterParts, tracesOfParts, eventsOf_append, completedAs] using hrest

/-- A plan on an idle timer completes: the registers and the trace are those after its accesses (R44). -/
theorem runPlan_idleTimer {s : State} {t : Timer} (hfree : isBusy s t = false) (as : List Access) (x : Answer) :
    runPlan ⟨some t, as, x⟩ s
      = .next (complete s (regsAfter s.board s.timers as) (eventsOf s.board s.timers as) x) := by
  simp [runPlan, hfree, regsAfter, eventsOf]

section
variable {s : State} {pin : Pin} {t : Timer} {ch : Channel}
  (hres : resolvePin s.board pin = some (t, ch)) (hfree : isBusy s t = false)
  (hmode : s.board.modeImpl.get t = true)
include hres hfree hmode

/-- SETADV on an idle timer whose tables are there completes as its body says (R79). -/
theorem exec_setadv (mode setting : BitVec 3) :
    exec (.setadv pin mode setting) s = .next (completedAs s (setadvBody s.board t mode setting)) := by
  rw [exec_eq_runPlan, (planOf_implemented hres hmode mode setting).2,
    runPlan_supportedBody hfree (setadvBody_supported _ _ _ _)]

variable (hfreq : s.board.freqImpl.get t = true)
include hfreq

/-- APPLY on an idle timer whose tables are there requests its pin and completes as its parts say (R109, R112). -/
theorem exec_apply (mode setting otype : BitVec 3) (p : BitVec 7) (freq : BitVec 5) :
    exec (.apply pin mode setting otype p freq) s
      = .next (appliedAs s pin (runParts (applyParts s.board t ch mode setting otype p freq))) := by
  rw [exec_eq_runPlan, planOf_apply hres hmode hfreq, runPlan_idleTimer hfree, regsAfter_gpio, eventsOf_gpio]
  simp [complete, appliedAs, applyParts_supported]

/-- An APPLY stops with its first part that does not end OK, having made that part's accesses too (R112). -/
theorem exec_apply_stops {mode setting otype : BitVec 3} {p : BitVec 7} {freq : BitVec 5} {k : Stage} {x : Body}
    {st : Status} (done rest : List (Stage × Body))
    (hparts : applyParts s.board t ch mode setting otype p freq = done ++ (k, x) :: rest)
    (hok : ∀ y ∈ done, y.2.status = .ok) (hx : x.status = st) (hst : st ≠ .ok) :
    exec (.apply pin mode setting otype p freq) s
      = .next (appliedAs s pin ((done ++ [(k, x)]).flatMap (·.2.accesses), ⟨st, some k, none⟩)) := by
  subst hx
  rw [exec_apply hres hfree hmode hfreq, hparts, runParts_firstFailing rest hok hst]

/-- An APPLY that stops with a part that makes no access leaves what the parts before it leave (R112). -/
theorem exec_apply_stops_before {mode setting otype : BitVec 3} {p : BitVec 7} {freq : BitVec 5} {k : Stage}
    {st : Status} {x : Body} (done rest : List (Stage × Body))
    (hparts : applyParts s.board t ch mode setting otype p freq = done ++ (k, x) :: rest)
    (hok : ∀ y ∈ done, y.2.status = .ok) (hx : x = ⟨[], st⟩) (hst : st ≠ .ok) :
    exec (.apply pin mode setting otype p freq) s
      = .next (appliedAs s pin (done.flatMap (·.2.accesses), ⟨st, some k, none⟩)) := by
  subst hx
  rw [exec_apply_stops hres hfree hmode hfreq done rest hparts hok rfl hst, List.flatMap_append]
  simp

end

/-- With every field accepted all four parts are made and answer OK (R109). -/
theorem runParts_applyParts_accepted {b : BoardProfile} {t : Timer} {ch : Channel} {mode setting otype : BitVec 3}
    {p : BitVec 7} {freq : BitVec 5} (hm : mode.toNat ≤ 4) (ha : setting.toNat ≤ 4) (hc : csPattern b t freq ≠ none)
    (hp : p.toNat ≤ 100) (ho : otype.toNat ≤ 3) :
    runParts (applyParts b t ch mode setting otype p freq)
      = ((applyParts b t ch mode setting otype p freq).flatMap (·.2.accesses), okAnswer) :=
  runParts_allOk (by
    simp [applyParts, setadvBody_status_of_le _ _ hm ha, setfreqBody_status_of_pattern hc,
      setdutyBody_status_of_le _ _ _ hp, setoutBody_status_of_le _ _ _ ho])

/-- Settles O33: each command starts on the registers the one before it left, as each part does. -/
theorem applyIsItsFourPartsInTurn : Obligations.ApplyIsItsFourPartsInTurn := by
  intro s pin mode setting otype p freq t ch hres hfree hmode hfreq hm ha ho hc hp
  have hlast := setoutBody_status_of_le s.board t ch ho
  refine ⟨_, _, _, _, exec_setadv hres hfree hmode mode setting, exec_setfreq (s := completedAs s _) hres hfree hfreq,
    exec_setduty (s := completedAs (completedAs s _) _) hres hfree p,
    exec_setout (s := completedAs (completedAs (completedAs s _) _) _) hres hfree, ?_⟩
  rw [exec_apply hres hfree hmode hfreq, runParts_applyParts_accepted hm ha hc hp ho, appliedAs_parts]
  simp only [applyParts, afterParts, tracesOfParts, completedAs, hlast, List.append_nil, List.append_assoc]
  rfl

/-- Settles O34: at each stage the parts before it end OK, and of the failing bodies SETFREQ's alone makes an access. -/
theorem applyStopsAtTheFirstFailingPart : Obligations.ApplyStopsAtTheFirstFailingPart := by
  intro s pin mode setting otype p freq t ch hres hfree hmode hfreq
  refine ⟨fun h => ?setadv, fun hm ha => ?later⟩
  case setadv =>
    exact exec_apply_stops_before hres hfree hmode hfreq [] _ rfl (by simp) (setadvBody_undefined _ _ h) (by simp)
  case later =>
    have hadvOk := setadvBody_status_of_le s.board t hm ha
    refine ⟨_, _, exec_setadv hres hfree hmode mode setting, exec_setfreq (s := completedAs s _) hres hfree hfreq,
      fun hc => ?setfreq, fun hc hp => ?setduty,
      fun hc hp ho => ⟨_, exec_setduty (s := completedAs (completedAs s _) _) hres hfree p, ?setout⟩⟩
    case setfreq =>
      have hfail : (setfreqBody s.board t freq).status = .invalidFrequency := by rw [setfreqBody_lacking hc]
      rw [exec_apply_stops hres hfree hmode hfreq [_] _ rfl (by simpa using hadvOk) hfail (by simp), appliedAs_parts]
      simp only [List.singleton_append, afterParts, tracesOfParts, List.append_nil]
      rfl
    case setduty =>
      have hfreqOk := setfreqBody_status_of_pattern hc
      rw [exec_apply_stops_before hres hfree hmode hfreq [_, _] _ rfl (by simp [hadvOk, hfreqOk])
        (setdutyBody_rejected _ _ _ hp) (by simp), appliedAs_parts]
      simp only [afterParts, tracesOfParts, List.append_nil]
      rfl
    case setout =>
      have hfreqOk := setfreqBody_status_of_pattern hc
      have hdutyOk := setdutyBody_status_of_le s.board t ch hp
      rw [exec_apply_stops_before hres hfree hmode hfreq [_, _, _] _ rfl (by simp [hadvOk, hfreqOk, hdutyOk])
        (setoutBody_undefined _ _ _ ho) (by simp), appliedAs_parts]
      simp only [afterParts, tracesOfParts, List.append_nil, List.append_assoc]
      rfl

/-! ### What an accepted APPLY leaves -/

/-- After changes of WGM, of CS, of a channel's compare register and of its COM, in this order, each field is as its own
change left it, and nothing else has changed (R109). -/
theorem keepsAllBut_fourParts {t : Timer} {ch : Channel} {ts us vs ws xs : Timers} (hwgm : KeepsAllButWgm t ts us)
    (hcs : KeepsAllButCs t us vs) (hocr : KeepsAllButOcr t ch vs ws) (hcom : KeepsAllButCom t ch ws xs) :
    wgmField xs t = wgmField us t ∧ csField xs t = csField vs t ∧ ocrField xs t ch = ocrField ws t ch
      ∧ SameTimersBut t ts xs
      ∧ (∀ k, k ≠ ch → comField xs t k = comField ts t k ∧ ocrField xs t k = ocrField ts t k)
      ∧ ∀ d, unownedPart xs t d = unownedPart ts t d := by
  obtain ⟨hothers₁, -, hcom₁, hocr₁, hunowned₁⟩ := hwgm
  obtain ⟨hothers₂, hwgm₂, hcom₂, hocr₂, hunowned₂⟩ := hcs
  obtain ⟨hothers₃, hwgm₃, hcs₃, hcom₃, hocr₃, hunowned₃⟩ := hocr
  obtain ⟨hothers₄, hwgm₄, hcs₄, hcom₄, hocr₄, hunowned₄⟩ := hcom
  refine ⟨?wgm, ?cs, hocr₄ ch, fun u hu => ?others, fun k hk => ⟨?com, ?ocr⟩, fun d => ?unowned⟩
  case wgm => rw [hwgm₄, hwgm₃, hwgm₂]
  case cs => rw [hcs₄, hcs₃]
  case others => rw [hothers₄ u hu, hothers₃ u hu, hothers₂ u hu, hothers₁ u hu]
  case com => rw [hcom₄ k hk, hcom₃, hcom₂, hcom₁]
  case ocr => rw [hocr₄, hocr₃ k hk, hocr₂, hocr₁]
  case unowned => rw [hunowned₄, hunowned₃, hunowned₂, hunowned₁]

/-- Settles O32: each field as its part sets it, the parts after it leaving it alone. -/
theorem applyConfiguresThePin : Obligations.ApplyConfiguresThePin := by
  intro s pin mode setting otype p freq t ch m a o c hres hfree hmode hfreq hm ha ho hc hp
  obtain ⟨hwgm, hkeepsWgm⟩ := setadvBody_leaves s.board s.timers t hm ha
  obtain ⟨hcs, hkeepsCs⟩ :=
    setfreqBody_leaves (regsAfter s.board s.timers (setadvBody s.board t mode setting).accesses) hc
  obtain ⟨hocr, hkeepsOcr⟩ := setdutyBody_leaves s.board _ t ch hp
  obtain ⟨hcom, hkeepsCom⟩ := setoutBody_leaves s.board _ t ch ho
  obtain ⟨hwgm', hcs', hocr', hkeeps⟩ := keepsAllBut_fourParts hkeepsWgm hkeepsCs hkeepsOcr hkeepsCom
  refine ⟨_, _, ?exec, eventsOf_noRequest s.timers (ownAccesses_applyParts s.board t ch mode setting otype p freq),
    hwgm'.trans hwgm, hcs'.trans hcs, ?ocr, hcom, hkeeps⟩
  case exec =>
    have hparts : runParts (applyParts s.board t ch mode setting otype p freq) = (_, okAnswer) :=
      runParts_applyParts_accepted ((modeOfCode_ne_none_iff mode).mp (by simp [hm]))
        ((settingOfCode_ne_none_iff setting).mp (by simp [ha])) (by simp [hc]) hp
        ((outputOfCode_ne_none_iff otype).mp (by simp [ho]))
    rw [exec_apply hres hfree hmode hfreq, hparts]
    simp only [appliedAs, applyParts, List.flatMap_cons, List.flatMap_nil, List.append_nil, regsAfter_append]
    rfl
  case ocr => rw [hocr', hocr, dutyWord_toNat s.board t hp]

end Sys2Proof.Machine
end

section
/-! SETPHASE and the reserved words (R113, R114): each is rejected Unsupported, and which words they are. -/

namespace Sys2Proof.Machine

/-- A command that is rejected Unsupported loads RESULT, empties the trace and sets the mark (R118). -/
theorem runPlan_rejectUnsupported (s : State) :
    runPlan (rejectPlan .unsupported) s = .next { s with trace := [], result := 5, refusalMark := true } := by
  simp [runPlan_reject, complete, raised, resultWord, stageField, ownerField, statusCode]

/-- Settles O36: SETPHASE is rejected, and the op alone selects it. -/
theorem phaseOffsetIsUnsupported : Obligations.PhaseOffsetIsUnsupported := by
  refine ⟨fun s x => ?rejected, fun w hop => ⟨w.extractLsb' 0 28, ?decodes⟩⟩
  case rejected => rw [exec_eq_runPlan, planOf, setphasePlan, runPlan_rejectUnsupported]
  case decodes => simp [decode, hop]

/-- Settles O37: a reserved word is rejected, and a word with such an op or bit is in no named row of R55. -/
theorem reservedWordsAreUnsupported : Obligations.ReservedWordsAreUnsupported := by
  refine ⟨fun s w => ?rejected, fun w h => decode_of_not_selected ?notNamed⟩
  case rejected => rw [exec_eq_runPlan, planOf, reservedPlan, runPlan_rejectUnsupported]
  case notNamed =>
    rw [← Bool.not_eq_true, selectsNamedRow_iff]
    rcases h with hop | ⟨hop, hbits⟩ | ⟨hop, hbits⟩ | ⟨hop, hbits⟩ | ⟨hop, hbits⟩ | ⟨hop, hbits⟩ | ⟨hop, hbits⟩
    case inl =>
      have hne : ∀ op : BitVec 4, op.toNat < 8 → opField w ≠ op := by
        rintro op hlt rfl
        exact absurd hop (Nat.not_le.mpr hlt)
      simp [hne]
    -- op 0 to 5: of the rows only the op's own is left, and it wants the bits of `hbits` zero.
    all_goals simpa [hop, imp_iff_not_or] using hbits

end Sys2Proof.Machine
end

section
/-! The refusal mark over every kind of step (R118), and the run of one caller's commands to its end (R120, R130, R143). -/

namespace Sys2Proof.Machine

/-! ### The refusal mark -/

/-- Of the codes of R115, 5 is the one of Unsupported. -/
theorem statusCode_eq_five_iff (st : Status) : statusCode st = 5 ↔ st = .unsupported := by
  cases st <;> decide

/-- A command that runs to its end sets the mark where RESULT shows status 5 (R53, R118). -/
theorem runPlan_mark_iff {p : Plan} {s s' : State} (h : runPlan p s = .next s') :
    s'.refusalMark = true ↔ s.refusalMark = true ∨ s'.result.extractLsb' 0 3 = 5 := by
  obtain ⟨-, rfl⟩ := runPlan_next p s s' h
  obtain ⟨hstatus, -⟩ := resultWordHoldsEachFieldInItsPlace p.answer
  rw [complete_refusalMark, complete_result, hstatus, statusCode_eq_five_iff, Bool.or_eq_true, beq_iff_eq]

/-- A command that begins completes at once, or only stands in progress (R48). -/
theorem beginPlan_keepsMark {p : Plan} {s s' : State} (h : beginPlan p s = .next s') (hmark : s.refusalMark = true) :
    s'.refusalMark = true := by
  rcases beginPlan_cases p s with ⟨-, hfault⟩ | ⟨-, -, hwhole⟩ | ⟨t, a, as, -, -, -, hbegun⟩
  · cases hfault.symm.trans h
  · exact (runPlan_mark_iff (hwhole.symm.trans h)).mpr (.inl hmark)
  · cases hbegun.symm.trans h
    exact hmark

theorem afterAccess_keepsMark (t : Timer) (f : InFlight) (rest : List Access) (touched : Bool) (us : Timers)
    (tr : List Event) {s : State} (hmark : s.refusalMark = true) :
    (afterAccess t f rest touched us tr s).refusalMark = true := by
  cases rest <;> simp [afterAccess, hmark]

theorem advance_keepsMark (t : Timer) {s : State} (hmark : s.refusalMark = true) :
    (advanceCommand t s).refusalMark = true := by
  cases hget : s.inFlight.get t with
  | none => rwa [advance_none hget]
  | some f =>
    simp only [advanceCommand, hget]
    split <;> exact afterAccess_keepsMark _ _ _ _ _ _ hmark

/-- No input clears the mark. -/
theorem takeInput_keepsMark {x : Input} {s s' : State} (h : takeInput x s = .next s') (hmark : s.refusalMark = true) :
    s'.refusalMark = true := by
  cases x with
  | command w => exact (runPlan_mark_iff ((exec_eq_runPlan _ _).symm.trans h)).mpr (.inl hmark)
  | start w => exact beginPlan_keepsMark h hmark
  | advance t =>
    cases h
    exact advance_keepsMark t hmark
  | foreignWrite r v =>
    rcases foreignWrite_cases r v s with ⟨-, h'⟩ | ⟨-, h'⟩ <;> cases h'.symm.trans h
    exact hmark
  | tempUse t => exact tempUse_next h ▸ hmark

/-- Settles O39: a command by the answer of its plan, a step by the kind of the input it takes. -/
theorem refusalMarkRecordsUnsupported : Obligations.RefusalMarkRecordsUnsupported := by
  refine ⟨fun i s s' h => runPlan_mark_iff ((exec_eq_runPlan i s).symm.trans h), fun s s' h hmark => ?_⟩
  rcases step_next_cases h with ⟨-, rfl⟩ | ⟨x, rest, -, hx⟩
  · exact hmark
  · exact takeInput_keepsMark hx hmark

/-! ### One caller's commands -/

/-- Settles O46, by induction on the list: with nothing in progress each command completes in its one step and leaves
nothing in progress. -/
theorem everyCommandListRunsToItsEnd : Obligations.EveryCommandListRunsToItsEnd := by
  intro s ws hidle hin
  induction ws generalizing s with
  | nil => exact ⟨s, rfl, hin, hidle⟩
  | cons w ws ih =>
    obtain ⟨s', hexec, -, hidle', hin', -⟩ := exec_idle (decode w) (s := { s with inputs := ws.map .command }) hidle
    have hstep : step s = .next s' := (step_cons hin).trans hexec
    obtain ⟨t, hrun, hended⟩ := ih s' hidle' hin'
    exact ⟨t, (run_succ_next ws.length hstep).trans hrun, hended⟩

end Sys2Proof.Machine
end

section
/-! The board profile is a parameter of a run, and no step changes it (R7, R132). -/

namespace Sys2Proof.Machine

/-- Settles O40, by the kind of step: a run that is over stays where it is, and no input touches the profile. -/
theorem boardProfileNeverChanges : Obligations.BoardProfileNeverChanges := by
  intro s s' h
  rcases step_next_cases h with ⟨-, rfl⟩ | ⟨x, rest, -, hx⟩
  · rfl
  · exact (takeInput_board_inputs x { s with inputs := rest } s' hx).1

end Sys2Proof.Machine
end
